-- ==== Sys2Proof/Word.lean ====
section
/-! DEFINITION. The data of the engine as the spec's notation fixes it (spec/00_scope.md R8, R9): bytes,
byte strings, columns of 4 bytes and blocks of 16 bytes (spec/20_memory.md R52). -/

namespace Sys2Proof

/-- R8: "A byte is 8 bits, a value in 0..255"; bit 0 is the least significant bit, bit i the coefficient of xⁱ. -/
abbrev Byte := BitVec 8

/-- R9: a byte string, indexed from 0. -/
abbrev Bytes := List Byte

/-- R9: a column (the source's "word") is a byte string of length 4. `b0` is the byte in row 0 (R52, R54). -/
@[ext]
structure Column where
  b0 : Byte
  b1 : Byte
  b2 : Byte
  b3 : Byte
deriving DecidableEq, Repr

/-- R9: a block is a byte string of length 16, viewed as 4 columns of 4 bytes, column-major (R52): byte `i` is the
element in row `i mod 4`, column `i div 4`. Also the shape of a round key (R23) and of the counter (R22). -/
@[ext]
structure Block where
  c0 : Column
  c1 : Column
  c2 : Column
  c3 : Column
deriving DecidableEq, Repr

end Sys2Proof
end

