-- ==== Sys2Proof/Config.lean ====
section
/-! DEFINITION. The implementation parameters that are plain sizes (spec/00_scope.md R7). The cipher constants of
R7 (affine map, mixing matrix, round constants) stand beside the functions that use them, in Sys2Proof/Machine/.
The spec leaves no parameter open (spec/92_eei_decisions.md: "No point is left OPEN"), so there is no free value. -/

namespace Sys2Proof.Config

/-- R7 `BLOCK_BYTES`, `KEY_BYTES`, `IV_BYTES`: bytes in a block, a key, a counter. -/
def blockBytes : Nat := 16

/-- R7 `NR`: rounds. -/
def rounds : Nat := 10

/-- R7 `NW`: key-schedule columns, four for each of the `NRK` = 11 round keys. -/
def scheduleColumns : Nat := 44

/-- R7 `TABLE_ENTRIES`: entries per substitution table. -/
def tableEntries : Nat := 256

/-- R7 `PAD_MAX`: the most pad bytes that are added (`PAD_MIN` is 1). -/
def padMax : Nat := 16

/-- R7 `MAX_LEN` = 2²⁴ − 1, the largest payload of a packet. -/
def maxLen : Nat := 16777215

/-- R7 `MAX_PAD_IN` = 2²⁴ − 17, the largest input of `PAD` and `ENCS`. -/
def maxPadIn : Nat := 16777199

end Sys2Proof.Config
end

