-- ==== Sys2Proof/Syntax.lean ====
section
/-! DEFINITION. The instructions: the 28 commands of the opcode map (spec/30_encoding.md R85), one constructor per
row of spec/opcode_table.json. A command has at most one operand, its payload `P`, "taken as a byte string exactly as
sent" (R86), so every constructor carries the payload of its packet; the length of the payload is `LEN`. A payload of
a length that R86 does not allow is a command like any other: its meaning answers the error the spec names. -/

namespace Sys2Proof

/-- R85: one command packet's command, with the payload `p` it carries. -/
inductive Instr where
  /-- `INIT`, OPC 0x01 (R132): build the substitution tables, once. -/
  | init (p : Bytes)
  /-- `RDSTAT`, OPC 0x02 (R236): read the status byte. -/
  | rdstat (p : Bytes)
  /-- `GFINV`, OPC 0x10 (R116): field inversion of one byte. -/
  | gfinv (p : Bytes)
  /-- `AFFINE`, OPC 0x11 (R117): the affine bit-transform of one byte. -/
  | affine (p : Bytes)
  /-- `XTIME`, OPC 0x12 (R118): multiplication of one byte by x. -/
  | xtime (p : Bytes)
  /-- `SBOX`, OPC 0x20 (R135): read one entry of the forward table. -/
  | sbox (p : Bytes)
  /-- `ISBOX`, OPC 0x21 (R136): read one entry of the inverse table. -/
  | isbox (p : Bytes)
  /-- `LDST`, OPC 0x30 (R152): create the State Matrix from a block. -/
  | ldst (p : Bytes)
  /-- `RDST`, OPC 0x31 (R153): read the State Matrix. -/
  | rdst (p : Bytes)
  /-- `SUBB`, OPC 0x32 (R154): byte substitution of the State Matrix. -/
  | subb (p : Bytes)
  /-- `ISUBB`, OPC 0x33 (R155): inverse byte substitution of the State Matrix. -/
  | isubb (p : Bytes)
  /-- `SHROW`, OPC 0x34 (R156): row rotation, encryption direction. -/
  | shrow (p : Bytes)
  /-- `ISHROW`, OPC 0x35 (R157): row rotation, decryption direction. -/
  | ishrow (p : Bytes)
  /-- `MIXC`, OPC 0x36 (R158): column mixing, encryption direction. -/
  | mixc (p : Bytes)
  /-- `IMIXC`, OPC 0x37 (R159): column mixing, decryption direction. -/
  | imixc (p : Bytes)
  /-- `ADDRK`, OPC 0x38 (R160): XOR a round key into the State Matrix. -/
  | addrk (p : Bytes)
  /-- `LOADKEY`, OPC 0x40 (R178): load a key and build its schedule. -/
  | loadkey (p : Bytes)
  /-- `RDRK`, OPC 0x41 (R180): read one round key. -/
  | rdrk (p : Bytes)
  /-- `CLRKEY`, OPC 0x42 (R179): dispose of the key schedule and everything derived under it. -/
  | clrkey (p : Bytes)
  /-- `ENCB`, OPC 0x50 (R192): encrypt one block under the loaded key. -/
  | encb (p : Bytes)
  /-- `DECB`, OPC 0x51 (R194): decrypt one block under the loaded key. -/
  | decb (p : Bytes)
  /-- `LOADIV`, OPC 0x60 (R206): load the initial counter. -/
  | loadiv (p : Bytes)
  /-- `RDCTR`, OPC 0x61 (R211): read the counter. -/
  | rdctr (p : Bytes)
  /-- `INCCTR`, OPC 0x62 (R212): increment the counter once. -/
  | incctr (p : Bytes)
  /-- `PAD`, OPC 0x63 (R215): pad a message. -/
  | pad (p : Bytes)
  /-- `UNPAD`, OPC 0x64 (R216): strip and check the padding of a message. -/
  | unpad (p : Bytes)
  /-- `ENCS`, OPC 0x65 (R213): encrypt a message in counter mode. -/
  | encs (p : Bytes)
  /-- `DECS`, OPC 0x66 (R214): decrypt a message in counter mode. -/
  | decs (p : Bytes)
deriving DecidableEq, Repr

/-- The payload `P` of a command (R10: `LEN = len(P)`). -/
def Instr.payload : Instr → Bytes
  | .init p => p
  | .rdstat p => p
  | .gfinv p => p
  | .affine p => p
  | .xtime p => p
  | .sbox p => p
  | .isbox p => p
  | .ldst p => p
  | .rdst p => p
  | .subb p => p
  | .isubb p => p
  | .shrow p => p
  | .ishrow p => p
  | .mixc p => p
  | .imixc p => p
  | .addrk p => p
  | .loadkey p => p
  | .rdrk p => p
  | .clrkey p => p
  | .encb p => p
  | .decb p => p
  | .loadiv p => p
  | .rdctr p => p
  | .incctr p => p
  | .pad p => p
  | .unpad p => p
  | .encs p => p
  | .decs p => p

/-- R10: `LEN`, the number of payload bytes of the command's packet. -/
def Instr.len (i : Instr) : Nat := i.payload.length

end Sys2Proof
end

