-- ==== Sys2Proof/WellFormed.lean ====
section
/-! DEFINITION. Which instructions a packet can carry: `LEN` is a 24-bit field (spec/30_encoding.md R82), so a payload
has at most `MAX_LEN` bytes (spec/00_scope.md R7). Nothing else about a command is ill-formed: "Every 32-bit value is
a well-formed header" (R83), and a length that R86 does not allow is answered by the command itself. -/

namespace Sys2Proof

/-- R82, R7: the payload's length fits the header's 24-bit `LEN`. -/
def Instr.wellFormed (i : Instr) : Bool := decide (i.len ≤ Config.maxLen)

end Sys2Proof
end

