-- ==== Sys2Proof/Decode.lean ====
section
/-! DEFINITION. The packet decoder and encoder (spec/30_encoding.md R82 to R88, R92). `decode` is total on any bytes;
it answers one instruction and the bytes after its packet, or rejects by name: an illegal command with its whole
packet consumed (R87), or a packet whose bytes have not all arrived (R83, R274). -/

namespace Sys2Proof

/-- What the decoder reads from the front of the command byte stream. -/
inductive Decoded where
  /-- A whole packet with an opcode of R85; `rest` is the bytes after it. -/
  | instr (i : Instr) (rest : Bytes)
  /-- R87: a whole packet whose `OPC` is not in the map of R85; its payload is consumed, `rest` follows it. -/
  | illegalCommand (opc : Byte) (payload : Bytes) (rest : Bytes)
  /-- R83, R274: the header or the payload is not complete; the engine waits for the rest. -/
  | incomplete
deriving DecidableEq, Repr

/-- R92: `LEN = h1·65536 + h2·256 + h3`. -/
def headerLen (h1 h2 h3 : Byte) : Nat := h1.toNat * 65536 + h2.toNat * 256 + h3.toNat

/-- R85: the opcode map. `none` for the 228 values that are not in it (R87). -/
def decodeOpcode (opc : Byte) (p : Bytes) : Option Instr :=
  match opc.toNat with
  | 0x01 => some (.init p)
  | 0x02 => some (.rdstat p)
  | 0x10 => some (.gfinv p)
  | 0x11 => some (.affine p)
  | 0x12 => some (.xtime p)
  | 0x20 => some (.sbox p)
  | 0x21 => some (.isbox p)
  | 0x30 => some (.ldst p)
  | 0x31 => some (.rdst p)
  | 0x32 => some (.subb p)
  | 0x33 => some (.isubb p)
  | 0x34 => some (.shrow p)
  | 0x35 => some (.ishrow p)
  | 0x36 => some (.mixc p)
  | 0x37 => some (.imixc p)
  | 0x38 => some (.addrk p)
  | 0x40 => some (.loadkey p)
  | 0x41 => some (.rdrk p)
  | 0x42 => some (.clrkey p)
  | 0x50 => some (.encb p)
  | 0x51 => some (.decb p)
  | 0x60 => some (.loadiv p)
  | 0x61 => some (.rdctr p)
  | 0x62 => some (.incctr p)
  | 0x63 => some (.pad p)
  | 0x64 => some (.unpad p)
  | 0x65 => some (.encs p)
  | 0x66 => some (.decs p)
  | _ => none

/-- R82, R83, R92: one packet from the front of the stream: 4 header bytes, then exactly `LEN` payload bytes,
whatever the opcode. -/
def decode : Bytes → Decoded
  | opc :: h1 :: h2 :: h3 :: tail =>
    if headerLen h1 h2 h3 ≤ tail.length then
      match decodeOpcode opc (tail.take (headerLen h1 h2 h3)) with
      | some i => .instr i (tail.drop (headerLen h1 h2 h3))
      | none => .illegalCommand opc (tail.take (headerLen h1 h2 h3)) (tail.drop (headerLen h1 h2 h3))
    else .incomplete
  | _ => .incomplete

/-- R85: the opcode of each command. -/
def Instr.opcode : Instr → Byte
  | .init _ => 0x01
  | .rdstat _ => 0x02
  | .gfinv _ => 0x10
  | .affine _ => 0x11
  | .xtime _ => 0x12
  | .sbox _ => 0x20
  | .isbox _ => 0x21
  | .ldst _ => 0x30
  | .rdst _ => 0x31
  | .subb _ => 0x32
  | .isubb _ => 0x33
  | .shrow _ => 0x34
  | .ishrow _ => 0x35
  | .mixc _ => 0x36
  | .imixc _ => 0x37
  | .addrk _ => 0x38
  | .loadkey _ => 0x40
  | .rdrk _ => 0x41
  | .clrkey _ => 0x42
  | .encb _ => 0x50
  | .decb _ => 0x51
  | .loadiv _ => 0x60
  | .rdctr _ => 0x61
  | .incctr _ => 0x62
  | .pad _ => 0x63
  | .unpad _ => 0x64
  | .encs _ => 0x65
  | .decs _ => 0x66

/-- R51, R82, R84: a packet header, most significant byte first: the opcode or status, then 24 bits of length. -/
def headerBytes (code : Byte) (len : Nat) : Bytes :=
  [code, BitVec.ofNat 8 (len / 65536), BitVec.ofNat 8 (len / 256), BitVec.ofNat 8 len]

/-- R82: the command packet of an instruction: header, then the payload, byte 0 first. -/
def encode (i : Instr) : Bytes := headerBytes i.opcode i.len ++ i.payload

/-- The lowest `n` bytes of `v`, least significant first: the order in which the opcode table's numbering goes on
above the 32-bit header (payload byte `j` is bits `8j+7` to `8j` of what stands above the header). -/
def lowBytes : (n v : Nat) → Bytes
  | 0, _ => []
  | n + 1, v => BitVec.ofNat 8 v :: lowBytes n (v / 256)

/-- The packet whose bits are `w` in the numbering of spec/opcode_table.json: the header is the 32-bit word in bits
31 to 0 (`OPC` in 31 to 24, `LEN` in 23 to 0), sent most significant byte first (R51); the `LEN` payload bytes follow
from bit 32 up. Bits from `nbits` up are 0. -/
def tableWordPacket (nbits w : Nat) : Bytes :=
  headerBytes (BitVec.ofNat 8 (w % 2 ^ nbits / 16777216)) (w % 2 ^ nbits % 16777216)
    ++ lowBytes (w % 2 ^ nbits % 16777216) (w % 2 ^ nbits / 4294967296)

/-- The instruction the decoder reads from the packet whose table bits are `w`; `none` where it refuses. -/
def decodeTableWord (nbits w : Nat) : Option Instr :=
  match decode (tableWordPacket nbits w) with
  | .instr i _ => some i
  | .illegalCommand _ _ _ => none
  | .incomplete => none

/-- R90: the pseudo-instructions; `rr` is the round-key index. -/
inductive Pseudo where
  /-- `ROUND rr`. -/
  | round (rr : Byte)
  /-- `FINAL`. -/
  | final
  /-- `IFINAL`. -/
  | ifinal
  /-- `IROUND rr`. -/
  | iround (rr : Byte)
deriving DecidableEq, Repr

/-- R90: "each a fixed sequence of commands". -/
def Pseudo.expand : Pseudo → List Instr
  | .round rr => [.subb [], .shrow [], .mixc [], .addrk [rr]]
  | .final => [.subb [], .shrow [], .addrk [0x0a]]
  | .ifinal => [.addrk [0x0a], .ishrow [], .isubb []]
  | .iround rr => [.addrk [rr], .imixc [], .ishrow [], .isubb []]

end Sys2Proof
end

