-- ==== Sys2Proof/Machine/Layout.lean ====
section
/-! DEFINITION. Byte order of columns and blocks (spec/20_memory.md R52 to R54) and byte-wise operations on them. -/

namespace Sys2Proof

/-- R54: the bytes of a column, byte 0 (row 0) first. -/
def Column.toBytes (w : Column) : Bytes := [w.b0, w.b1, w.b2, w.b3]

/-- R52: the 16 bytes of a block: the columns laid end to end. -/
def Block.toBytes (b : Block) : Bytes := b.c0.toBytes ++ b.c1.toBytes ++ b.c2.toBytes ++ b.c3.toBytes

/-- R52: a byte string of length 16 as a block; `none` for any other length (R56: "never split, padded, truncated or
merged"). -/
def Block.ofBytes : Bytes → Option Block
  | [a0, a1, a2, a3, a4, a5, a6, a7, a8, a9, a10, a11, a12, a13, a14, a15] =>
    some ⟨⟨a0, a1, a2, a3⟩, ⟨a4, a5, a6, a7⟩, ⟨a8, a9, a10, a11⟩, ⟨a12, a13, a14, a15⟩⟩
  | _ => none

/-- R210: the 16-byte blocks of a byte string, in order. The streamer applies it only to lengths that are multiples
of 16; fewer than 16 last bytes make no block. -/
def toBlocks : Bytes → List Block
  | a0 :: a1 :: a2 :: a3 :: a4 :: a5 :: a6 :: a7 :: a8 :: a9 :: a10 :: a11 :: a12 :: a13 :: a14 :: a15 :: rest =>
    ⟨⟨a0, a1, a2, a3⟩, ⟨a4, a5, a6, a7⟩, ⟨a8, a9, a10, a11⟩, ⟨a12, a13, a14, a15⟩⟩ :: toBlocks rest
  | _ => []

/-- The bytes of a list of blocks, laid end to end. -/
def fromBlocks (bs : List Block) : Bytes := bs.flatMap Block.toBytes

/-- The byte of a column in row `r`. -/
def Column.get (w : Column) (r : Fin 4) : Byte :=
  match r with
  | 0 => w.b0
  | 1 => w.b1
  | 2 => w.b2
  | 3 => w.b3

/-- Column `c` of a block. -/
def Block.column (b : Block) (c : Fin 4) : Column :=
  match c with
  | 0 => b.c0
  | 1 => b.c1
  | 2 => b.c2
  | 3 => b.c3

/-- R10, R52: `s(r, c)`, the element in row `r`, column `c`. -/
def Block.get (b : Block) (r c : Fin 4) : Byte := (b.column c).get r

/-- The block whose element in row `r`, column `c` is `f r c`. -/
def Block.ofElements (f : Fin 4 → Fin 4 → Byte) : Block :=
  ⟨⟨f 0 0, f 1 0, f 2 0, f 3 0⟩, ⟨f 0 1, f 1 1, f 2 1, f 3 1⟩,
   ⟨f 0 2, f 1 2, f 2 2, f 3 2⟩, ⟨f 0 3, f 1 3, f 2 3, f 3 3⟩⟩

/-- A byte function on each byte of a column. -/
def Column.map (f : Byte → Byte) (w : Column) : Column := ⟨f w.b0, f w.b1, f w.b2, f w.b3⟩

/-- A byte function on each byte of a block. -/
def Block.map (f : Byte → Byte) (b : Block) : Block := ⟨b.c0.map f, b.c1.map f, b.c2.map f, b.c3.map f⟩

/-- A column function on each of the four columns of a block. -/
def Block.mapColumns (f : Column → Column) (b : Block) : Block := ⟨f b.c0, f b.c1, f b.c2, f b.c3⟩

/-- R9: `xor(a, b)` of two columns. -/
def Column.xor (a b : Column) : Column := ⟨a.b0 ^^^ b.b0, a.b1 ^^^ b.b1, a.b2 ^^^ b.b2, a.b3 ^^^ b.b3⟩

/-- R9: `xor(a, b)` of two blocks. -/
def Block.xor (a b : Block) : Block := ⟨a.c0.xor b.c0, a.c1.xor b.c1, a.c2.xor b.c2, a.c3.xor b.c3⟩

/-- R53: a column's four bytes as one number, byte 0 most significant. -/
def Column.toNat (w : Column) : Nat :=
  w.b0.toNat * 16777216 + w.b1.toNat * 65536 + w.b2.toNat * 256 + w.b3.toNat

/-- R53: a block as one 128-bit unsigned integer, `Σ CTR[i]·256^(15−i)`. -/
def Block.toNat (b : Block) : Nat :=
  b.c0.toNat * 2 ^ 96 + b.c1.toNat * 2 ^ 64 + b.c2.toNat * 2 ^ 32 + b.c3.toNat

end Sys2Proof
end

