-- ==== Sys2Proof/Machine/State.lean ====
section
/-! DEFINITION. The engine's state as plain data (spec/10_state.md R20 to R33), its reset value
(spec/70_reset_and_hazards.md R270), and the kinds of error, fault and refusal. -/

namespace Sys2Proof.Machine

/-- R24: the two substitution tables, 256 bytes each, indexed by a byte. -/
structure Tables where
  /-- `SBOX`, the forward table. -/
  sbox : Vector Byte 256
  /-- `INV_SBOX`, the inverse table. -/
  invSbox : Vector Byte 256
deriving DecidableEq, Repr

/-- R23: `RK[0]` to `RK[10]`, each 16 bytes laid out like the State Matrix. -/
abbrev RoundKeys := Vector Block 11

/-- R26, R33: a register together with the valid flag that guards it. The flag is 1 exactly when the register holds a
value: "A register, register file or table whose valid flag is 0 holds no value"; the register "is absent" then
(R33; spec/93_implementation_defined.md S1: "Model as absent (an option type), not as zeros"). -/
abbrev Guarded (α : Type) := Option α

/-- R241: the error kinds. Their codes are `ErrorKind.code` in Sys2Proof/Machine/Ops.lean. -/
inductive ErrorKind where
  /-- Key payload length is not 16 (`LOADKEY`). -/
  | invalidKeySize
  /-- Block payload length is not 16 (`LDST`, `ENCB`, `DECB`), or not a multiple of 16 (`DECS`). -/
  | invalidBlockSize
  /-- IV payload length is not 16 (`LOADIV`). -/
  | invalidIVSize
  /-- The payload fails the pad test of R209 (`UNPAD`). -/
  | invalidPadding
  /-- R248: a host-only kind; the engine never raises it. -/
  | shortCiphertext
  /-- R248: a host-only kind; the engine never raises it. -/
  | authenticationFailure
  /-- R248: a host-only kind; the engine never raises it. -/
  | decodeError
  /-- `OPC` is not one of the 28 opcodes (R87, R249). -/
  | illegalCommand
  /-- `LEN` not legal where no size error of the source applies; round-key index above 10; message too long. -/
  | invalidOperand
  /-- `TV` = 0 and the command needs the tables. -/
  | notInitialised
  /-- `KV` = 0 and the command needs the round keys. -/
  | noKey
  /-- `CV` = 0 and the command needs the counter. -/
  | noIV
  /-- `SV` = 0 and the command needs the State Matrix. -/
  | noState
deriving DecidableEq, Repr

/-- The state of one engine and of the two byte streams that join it to its host. -/
structure State where
  /-- `SBOX` and `INV_SBOX` (R24) with `TV` (R26). -/
  tables : Guarded Tables
  /-- `RK[0..10]` (R23) with `KV` (R26). -/
  rk : Guarded RoundKeys
  /-- `CTR` (R22), `CTR[0]` most significant, with `CV` (R26). -/
  ctr : Guarded Block
  /-- `STATE`, the State Matrix (R21), with `SV` (R26). -/
  matrix : Guarded Block
  /-- `RND`, the 4-bit sequencer register (R31); 0 between commands. -/
  rnd : BitVec 4
  /-- `ACTIVE`, beside `RND` (R31); 0 between commands. -/
  active : Bool
  /-- R32(a), R83: the message buffer, the bytes taken so far of a packet that is not complete. -/
  buffer : Bytes
  /-- R81: the bytes the host has put on the command port and the engine has not taken, oldest first. -/
  cmd : Bytes
  /-- R81, R84: the bytes sent on the response port since reset, oldest first. -/
  rsp : Bytes
  /-- R81, R270: the reset input `rst` is asserted. -/
  rst : Bool
deriving DecidableEq, Repr

/-- What could stop the engine with a fault: nothing. "There is no precondition whose violation is undefined
behaviour" (R240) and "The engine never halts, stops or finishes" (R276); every error is a response packet, after
which the engine goes on (R245). -/
inductive Fault where
deriving DecidableEq, Repr

/-- What the model could refuse. -/
inductive Refusal where
  /-- A command without a meaning, named as spec/opcode_table.json names it. Raised by no arm of `exec`: every command
  has its meaning. Safe: a refusal only stops a run. -/
  | notModelled (mnemonic : String)
deriving DecidableEq, Repr

/-- R270: the state after reset: the four flags 0 and everything they guard absent, `RND` = 0, `ACTIVE` = 0, the
message buffer empty, the parser at a packet boundary, the response port idle. -/
def State.reset : State where
  tables := none
  rk := none
  ctr := none
  matrix := none
  rnd := 0
  active := false
  buffer := []
  cmd := []
  rsp := []
  rst := false

end Sys2Proof.Machine
end

