-- ==== Sys2Proof/Machine/Ops.lean ====
section
/-! DEFINITION. The named operations over the engine's state: the writes of the registers, the response packet, the
one operation by which a command ends (`finish`: respond or raise), and what the host can do to the ports. -/

namespace Sys2Proof.Machine

/-- R241: the code of each error kind, the `STAT` byte of its response (R84). -/
def ErrorKind.code : ErrorKind → Byte
  | .invalidKeySize => 0x01
  | .invalidBlockSize => 0x02
  | .invalidIVSize => 0x03
  | .invalidPadding => 0x04
  | .shortCiphertext => 0x05
  | .authenticationFailure => 0x06
  | .decodeError => 0x07
  | .illegalCommand => 0x10
  | .invalidOperand => 0x11
  | .notInitialised => 0x12
  | .noKey => 0x13
  | .noIV => 0x14
  | .noState => 0x15

/-- R24: the tables get a value (and `TV` is 1). -/
def State.setTables (s : State) (t : Guarded Tables) : State := { s with tables := t }

/-- R23: `RK` gets a value (`KV` <- 1) or loses it (`KV` <- 0). -/
def State.setRk (s : State) (k : Guarded RoundKeys) : State := { s with rk := k }

/-- R22: `CTR` gets a value (`CV` <- 1) or loses it (`CV` <- 0). -/
def State.setCtr (s : State) (c : Guarded Block) : State := { s with ctr := c }

/-- R21: `STATE` gets a value (`SV` <- 1) or loses it (`SV` <- 0). -/
def State.setMatrix (s : State) (m : Guarded Block) : State := { s with matrix := m }

/-- R31: at the end of a cipher command the sequencer is idle again (`ACTIVE` <- 0, `RND` <- 0), and `STATE`, its
working register, is left without a value (R21). -/
def State.endCipher (s : State) : State := { s with matrix := none, rnd := 0, active := false }

/-- R84: one response packet goes out on the response port: the status and length header, then the payload. -/
def State.send (s : State) (stat : Byte) (payload : Bytes) : State :=
  { s with rsp := s.rsp ++ (headerBytes stat payload.length ++ payload) }

/-- R10, R84: `respond(v)`: the response has status `OK` (0x00) and payload `v`. -/
def State.respond (s : State) (v : Bytes) : State := s.send 0x00 v

/-- R10, R245: `raise <Error>`, the engine's only exception entry: no state is written, nothing is saved, no mode and
no flag changes; the response has the error's code and an empty payload. There is no return to model beside it: "There
is no return instruction and nothing to restore, because nothing was saved or changed" (R246). -/
def State.raise (s : State) (e : ErrorKind) : State := s.send e.code []

/-- What the checks and the body of a command come to: the written state and the response payload, or an error. -/
abbrev Answer := Except ErrorKind (State × Bytes)

/-- R10, R245: a command ends once: with its writes and an `OK` response, or with an error response and no write. -/
def finish (s : State) : Answer → Host.Outcome State Fault Refusal
  | .ok (s', v) => .next (s'.respond v)
  | .error e => .next (s.raise e)

/-- R83: the packet at the front of the stream is consumed whole; the bytes after it stay on the command port. -/
def State.consume (s : State) (rest : Bytes) : State := { s with buffer := [], cmd := rest }

/-- R274: the engine takes what has arrived of an incomplete packet into the message buffer and waits. -/
def State.hold (s : State) : State := { s with buffer := s.buffer ++ s.cmd, cmd := [] }

/-- R32(b): the engine has taken a command header and owes its response. -/
def State.busy (s : State) : Bool := decide (4 ≤ s.buffer.length)

/-- R5, R81: the host puts bytes on the command port. -/
def State.hostSend (s : State) (bytes : Bytes) : State := { s with cmd := s.cmd ++ bytes }

/-- R5, R270: the host asserts `rst`. -/
def State.hostReset (s : State) : State := { s with rst := true }

end Sys2Proof.Machine
end

