-- ==== Sys2Proof/Machine/Flags.lean ====
section
/-! DEFINITION. The four valid flags (spec/10_state.md R26), the `STATUS` byte (R29) and the `require` checks of
spec/00_scope.md R10, each of which gives the value of the register its flag guards. -/

namespace Sys2Proof.Machine

/-- R26: `TV`, `SBOX` and `INV_SBOX` have been built. -/
def State.tv (s : State) : Bool := s.tables.isSome

/-- R26: `KV`, `RK` holds the schedule of a loaded key. -/
def State.kv (s : State) : Bool := s.rk.isSome

/-- R26: `CV`, `CTR` holds a counter the host loaded and no stream command has yet consumed. -/
def State.cv (s : State) : Bool := s.ctr.isSome

/-- R26: `SV`, `STATE` holds a block the host loaded with `LDST`, possibly transformed since. -/
def State.sv (s : State) : Bool := s.matrix.isSome

/-- A flag as the bit at position `n` of a byte. -/
def flagBit (f : Bool) (n : Nat) : Byte := BitVec.ofNat 8 (f.toNat <<< n)

/-- R29: `STATUS`: bit 0 `TV`, bit 1 `KV`, bit 2 `CV`, bit 3 `SV`, bits 7:4 hardwired 0. -/
def State.status (s : State) : Byte := flagBit s.tv 0 ||| flagBit s.kv 1 ||| flagBit s.cv 2 ||| flagBit s.sv 3

/-- R10: `require T`, and the tables. The cipher commands, whose rules require `K` alone because `KV` = 1 implies
`TV` = 1 (R28), read `SBOX` through this as well. -/
def requireT (s : State) : Except ErrorKind Tables :=
  match s.tables with
  | some t => .ok t
  | none => .error .notInitialised

/-- R10: `require K`, and the round keys. -/
def requireK (s : State) : Except ErrorKind RoundKeys :=
  match s.rk with
  | some k => .ok k
  | none => .error .noKey

/-- R10: `require C`, and the counter. -/
def requireC (s : State) : Except ErrorKind Block :=
  match s.ctr with
  | some c => .ok c
  | none => .error .noIV

/-- R10: `require S`, and the State Matrix. -/
def requireS (s : State) : Except ErrorKind Block :=
  match s.matrix with
  | some m => .ok m
  | none => .error .noState

end Sys2Proof.Machine
end

