-- ==== Sys2Proof/Machine/Operands.lean ====
section
/-! DEFINITION. Operand assembly (spec/30_encoding.md R86): each legal payload form with the error of any other `LEN`.
These are the checks of classes (2) and (3) of spec/60_exceptions.md R244. -/

namespace Sys2Proof.Machine

/-- R86: `LEN` = 0, else `InvalidOperand`. -/
def noOperand : Bytes → Except ErrorKind Unit
  | [] => .ok ()
  | _ => .error .invalidOperand

/-- R86: `LEN` = 1, else `InvalidOperand`; the operand is `P[0]`. -/
def oneByte : Bytes → Except ErrorKind Byte
  | [x] => .ok x
  | _ => .error .invalidOperand

/-- R86, R244 (3): `LEN` = 1 and `P[0]` in 0..10, else `InvalidOperand`; the operand is the round-key index. -/
def roundKeyIndex (p : Bytes) : Except ErrorKind (Fin 11) := do
  let r ← oneByte p
  if h : r.toNat < 11 then .ok ⟨r.toNat, h⟩ else .error .invalidOperand

/-- R86: `LEN` = 16, else the size error `e` of the command; the operand is a block. -/
def blockOperand (e : ErrorKind) (p : Bytes) : Except ErrorKind Block :=
  match Block.ofBytes p with
  | some b => .ok b
  | none => .error e

/-- R86, R215, R213: `LEN` at most `MAX_PAD_IN`, else `InvalidOperand`; the operand is the message. -/
def paddableMessage (p : Bytes) : Except ErrorKind Bytes :=
  if p.length ≤ Config.maxPadIn then .ok p else .error .invalidOperand

/-- R86, R214: `LEN` a multiple of 16, else `InvalidBlockSize`; the operand is the ciphertext. -/
def wholeBlocks (p : Bytes) : Except ErrorKind Bytes :=
  if p.length % Config.blockBytes = 0 then .ok p else .error .invalidBlockSize

end Sys2Proof.Machine
end

