-- ==== Sys2Proof/Machine/GfAlgebra.lean ====
section
/-! DEFINITION. GF(2⁸) algebra (spec/40_gf_algebra.md): the field functions and the commands `GFINV`, `AFFINE`,
`XTIME`. Addition in the field is exclusive or (R111). -/

namespace Sys2Proof.Machine

/-- R112: multiplication by x: "conditionally XORing the reduction constant 0x1B when the top bit is set". -/
def xtime (a : Byte) : Byte := if a.getLsbD 7 then (a <<< 1) ^^^ 0x1b else a <<< 1

/-- R113: the loop of `gmul` over the bits `i` of `b` in `is`, from the product `p` so far. -/
def gmulLoop (b : Byte) : (is : List Nat) → (a p : Byte) → Byte
  | [], _, p => p
  | i :: is, a, p => gmulLoop b is (xtime a) (if b.getLsbD i then p ^^^ a else p)

/-- R113: the product of two bytes in the field of R110. -/
def gmul (a b : Byte) : Byte := gmulLoop b [0, 1, 2, 3, 4, 5, 6, 7] a 0

/-- R114: the `n`-th power by repeated multiplication, `r <- gmul(r, x)` from `r` = 1. -/
def gpow (x : Byte) : Nat → Byte
  | 0 => 1
  | n + 1 => gmul (gpow x n) x

/-- R120: the table of `inverse(x)`, row = high nibble of `x`, column = low nibble. -/
def inverseTable : List (List Byte) :=
  [[0x00, 0x01, 0x8d, 0xf6, 0xcb, 0x52, 0x7b, 0xd1, 0xe8, 0x4f, 0x29, 0xc0, 0xb0, 0xe1, 0xe5, 0xc7],
   [0x74, 0xb4, 0xaa, 0x4b, 0x99, 0x2b, 0x60, 0x5f, 0x58, 0x3f, 0xfd, 0xcc, 0xff, 0x40, 0xee, 0xb2],
   [0x3a, 0x6e, 0x5a, 0xf1, 0x55, 0x4d, 0xa8, 0xc9, 0xc1, 0x0a, 0x98, 0x15, 0x30, 0x44, 0xa2, 0xc2],
   [0x2c, 0x45, 0x92, 0x6c, 0xf3, 0x39, 0x66, 0x42, 0xf2, 0x35, 0x20, 0x6f, 0x77, 0xbb, 0x59, 0x19],
   [0x1d, 0xfe, 0x37, 0x67, 0x2d, 0x31, 0xf5, 0x69, 0xa7, 0x64, 0xab, 0x13, 0x54, 0x25, 0xe9, 0x09],
   [0xed, 0x5c, 0x05, 0xca, 0x4c, 0x24, 0x87, 0xbf, 0x18, 0x3e, 0x22, 0xf0, 0x51, 0xec, 0x61, 0x17],
   [0x16, 0x5e, 0xaf, 0xd3, 0x49, 0xa6, 0x36, 0x43, 0xf4, 0x47, 0x91, 0xdf, 0x33, 0x93, 0x21, 0x3b],
   [0x79, 0xb7, 0x97, 0x85, 0x10, 0xb5, 0xba, 0x3c, 0xb6, 0x70, 0xd0, 0x06, 0xa1, 0xfa, 0x81, 0x82],
   [0x83, 0x7e, 0x7f, 0x80, 0x96, 0x73, 0xbe, 0x56, 0x9b, 0x9e, 0x95, 0xd9, 0xf7, 0x02, 0xb9, 0xa4],
   [0xde, 0x6a, 0x32, 0x6d, 0xd8, 0x8a, 0x84, 0x72, 0x2a, 0x14, 0x9f, 0x88, 0xf9, 0xdc, 0x89, 0x9a],
   [0xfb, 0x7c, 0x2e, 0xc3, 0x8f, 0xb8, 0x65, 0x48, 0x26, 0xc8, 0x12, 0x4a, 0xce, 0xe7, 0xd2, 0x62],
   [0x0c, 0xe0, 0x1f, 0xef, 0x11, 0x75, 0x78, 0x71, 0xa5, 0x8e, 0x76, 0x3d, 0xbd, 0xbc, 0x86, 0x57],
   [0x0b, 0x28, 0x2f, 0xa3, 0xda, 0xd4, 0xe4, 0x0f, 0xa9, 0x27, 0x53, 0x04, 0x1b, 0xfc, 0xac, 0xe6],
   [0x7a, 0x07, 0xae, 0x63, 0xc5, 0xdb, 0xe2, 0xea, 0x94, 0x8b, 0xc4, 0xd5, 0x9d, 0xf8, 0x90, 0x6b],
   [0xb1, 0x0d, 0xd6, 0xeb, 0xc6, 0x0e, 0xcf, 0xad, 0x08, 0x4e, 0xd7, 0xe3, 0x5d, 0x50, 0x1e, 0xb3],
   [0x5b, 0x23, 0x38, 0x34, 0x68, 0x46, 0x03, 0x8c, 0xdd, 0x9c, 0x7d, 0xa0, 0xcd, 0x1a, 0x41, 0x1c]]

/-- R114, R120: the multiplicative inverse, 0 for 0: "a model may define `inverse` by that table". -/
def inverse (x : Byte) : Byte := (inverseTable.getD (x.toNat / 16) []).getD (x.toNat % 16) 0

/-- R8: the 8-bit left rotation, for 1 ≤ n ≤ 7. -/
def rotl8 (b : Byte) (n : Nat) : Byte := (b <<< n) ||| (b >>> (8 - n))

/-- R115: the affine bit-transform, with the rotations 1 to 4 and the constant 0x63 of decision D1. -/
def affineTransform (x : Byte) : Byte := x ^^^ rotl8 x 1 ^^^ rotl8 x 2 ^^^ rotl8 x 3 ^^^ rotl8 x 4 ^^^ 0x63

/-- R116: `GFINV`. -/
def execGfinv (p : Bytes) (s : State) : Host.Outcome State Fault Refusal := finish s do
  let x ← oneByte p
  .ok (s, [inverse x])

/-- R117: `AFFINE`. -/
def execAffine (p : Bytes) (s : State) : Host.Outcome State Fault Refusal := finish s do
  let x ← oneByte p
  .ok (s, [affineTransform x])

/-- R118: `XTIME`. -/
def execXtime (p : Bytes) (s : State) : Host.Outcome State Fault Refusal := finish s do
  let a ← oneByte p
  .ok (s, [xtime a])

end Sys2Proof.Machine
end

