-- ==== Sys2Proof/Machine/SboxBuilder.lean ====
section
/-! DEFINITION. The substitution table builder (spec/41_sbox_builder.md) and the commands `INIT`, `SBOX`, `ISBOX`. -/

namespace Sys2Proof.Machine

/-- The byte values 0 to 255 in ascending order, the index `x` of the loops of R131. -/
def byteValues : List Byte := (List.range 256).map (BitVec.ofNat 8)

theorem byteValues_length : byteValues.length = 256 := by simp [byteValues]

/-- R131, first loop: the array whose entry `x` is `f x`, for every byte value `x`. -/
def tabulate (f : Byte → Byte) : Vector Byte 256 := ⟨⟨byteValues.map f⟩, by simp [byteValues]⟩

/-- Entry `x` of a 256-entry array: every byte is a legal index (R135, R136). -/
def lookup (v : Vector Byte 256) (x : Byte) : Byte := v.get x.toFin

/-- R131, second loop: `MemWrite(INV_SBOX + SBOX[x], 1, x)` for `x` in 0..255. The loop writes every entry, so the
bytes it starts from do not matter. -/
def scatter (sbox : Vector Byte 256) : Vector Byte 256 :=
  byteValues.foldl (fun inv x => inv.set (lookup sbox x).toNat x (lookup sbox x).isLt) (Vector.replicate 256 0)

/-- R131: the forward table, `affineTransform(inverse(x))` for every byte value. -/
def builtSbox : Vector Byte 256 := tabulate fun x => affineTransform (inverse x)

/-- R131: `buildTables()`. -/
def buildTables : Tables := ⟨builtSbox, scatter builtSbox⟩

/-- R145: one byte through the forward table. -/
def Tables.sub (t : Tables) (x : Byte) : Byte := lookup t.sbox x

/-- R146: one byte through the inverse table. -/
def Tables.invSub (t : Tables) (y : Byte) : Byte := lookup t.invSbox y

/-- R132: `INIT`. The tables are built only when `TV` = 0; a second `INIT` writes nothing. -/
def execInit (p : Bytes) (s : State) : Host.Outcome State Fault Refusal := finish s do
  noOperand p
  .ok (if s.tv then s else s.setTables (some buildTables), [])

/-- R135: `SBOX`. -/
def execSbox (p : Bytes) (s : State) : Host.Outcome State Fault Refusal := finish s do
  let x ← oneByte p
  let t ← requireT s
  .ok (s, [t.sub x])

/-- R136: `ISBOX`. -/
def execIsbox (p : Bytes) (s : State) : Host.Outcome State Fault Refusal := finish s do
  let y ← oneByte p
  let t ← requireT s
  .ok (s, [t.invSub y])

end Sys2Proof.Machine
end

