-- ==== Sys2Proof/Machine/BlockTransform.lean ====
section
/-! DEFINITION. The block transform (spec/42_block_transform.md): the seven functions on a block and the commands
`LDST`, `RDST`, `SUBB`, `ISUBB`, `SHROW`, `ISHROW`, `MIXC`, `IMIXC`, `ADDRK`. -/

namespace Sys2Proof.Machine

/-- R145. -/
def substituteBytes (t : Tables) (b : Block) : Block := b.map t.sub

/-- R146. -/
def invSubstituteBytes (t : Tables) (b : Block) : Block := b.map t.invSub

/-- R147: `shiftRows(s)(r, c) = s(r, (c + r) mod 4)`. -/
def shiftRows (b : Block) : Block := Block.ofElements fun r c => b.get r (c + r)

/-- R148: `invShiftRows(s)(r, c) = s(r, (c − r) mod 4)`. -/
def invShiftRows (b : Block) : Block := Block.ofElements fun r c => b.get r (c - r)

/-- R149: the `xtime` form of one column's mixing. -/
def mixColumn (a : Column) : Column :=
  let t := a.b0 ^^^ a.b1 ^^^ a.b2 ^^^ a.b3
  ⟨a.b0 ^^^ t ^^^ xtime (a.b0 ^^^ a.b1), a.b1 ^^^ t ^^^ xtime (a.b1 ^^^ a.b2),
   a.b2 ^^^ t ^^^ xtime (a.b2 ^^^ a.b3), a.b3 ^^^ t ^^^ xtime (a.b3 ^^^ a.b0)⟩

/-- R149: `mixColumns(s)`, the four columns independently. -/
def mixColumns (b : Block) : Block := b.mapColumns mixColumn

/-- R150: the `xtime` form of one column's inverse mixing. -/
def invMixColumn (a : Column) : Column :=
  let u := xtime (xtime (a.b0 ^^^ a.b2))
  let v := xtime (xtime (a.b1 ^^^ a.b3))
  mixColumn ⟨a.b0 ^^^ u, a.b1 ^^^ v, a.b2 ^^^ u, a.b3 ^^^ v⟩

/-- R150: `invMixColumns(s)`. -/
def invMixColumns (b : Block) : Block := b.mapColumns invMixColumn

/-- R151: byte-wise XOR of the state and a round key. -/
def addRoundKey (b k : Block) : Block := b.xor k

/-- R152: `LDST`. -/
def execLdst (p : Bytes) (s : State) : Host.Outcome State Fault Refusal := finish s do
  let b ← blockOperand .invalidBlockSize p
  .ok (s.setMatrix (some b), [])

/-- R153: `RDST`. -/
def execRdst (p : Bytes) (s : State) : Host.Outcome State Fault Refusal := finish s do
  noOperand p
  let m ← requireS s
  .ok (s, m.toBytes)

/-- R154: `SUBB`. -/
def execSubb (p : Bytes) (s : State) : Host.Outcome State Fault Refusal := finish s do
  noOperand p
  let t ← requireT s
  let m ← requireS s
  .ok (s.setMatrix (some (substituteBytes t m)), [])

/-- R155: `ISUBB`. -/
def execIsubb (p : Bytes) (s : State) : Host.Outcome State Fault Refusal := finish s do
  noOperand p
  let t ← requireT s
  let m ← requireS s
  .ok (s.setMatrix (some (invSubstituteBytes t m)), [])

/-- R156: `SHROW`. -/
def execShrow (p : Bytes) (s : State) : Host.Outcome State Fault Refusal := finish s do
  noOperand p
  let m ← requireS s
  .ok (s.setMatrix (some (shiftRows m)), [])

/-- R157: `ISHROW`. -/
def execIshrow (p : Bytes) (s : State) : Host.Outcome State Fault Refusal := finish s do
  noOperand p
  let m ← requireS s
  .ok (s.setMatrix (some (invShiftRows m)), [])

/-- R158: `MIXC`. -/
def execMixc (p : Bytes) (s : State) : Host.Outcome State Fault Refusal := finish s do
  noOperand p
  let m ← requireS s
  .ok (s.setMatrix (some (mixColumns m)), [])

/-- R159: `IMIXC`. -/
def execImixc (p : Bytes) (s : State) : Host.Outcome State Fault Refusal := finish s do
  noOperand p
  let m ← requireS s
  .ok (s.setMatrix (some (invMixColumns m)), [])

/-- R160: `ADDRK`. -/
def execAddrk (p : Bytes) (s : State) : Host.Outcome State Fault Refusal := finish s do
  let r ← roundKeyIndex p
  let k ← requireK s
  let m ← requireS s
  .ok (s.setMatrix (some (addRoundKey m (k.get r))), [])

end Sys2Proof.Machine
end

