-- ==== Sys2Proof/Machine/KeySchedule.lean ====
section
/-! DEFINITION. The key schedule (spec/43_key_schedule.md): the round constants, the expansion and the commands
`LOADKEY`, `RDRK`, `CLRKEY`. -/

namespace Sys2Proof.Machine

/-- R25, R176: `RCON[1]` to `RCON[10]` in order, the values of decision D3. -/
def rconTable : List Byte := [0x01, 0x02, 0x04, 0x08, 0x10, 0x20, 0x40, 0x80, 0x1b, 0x36]

/-- R176: `RCON[j]` for `j` in 1..10; the expansion uses no other index. -/
def rcon (j : Nat) : Byte := rconTable.getD (j - 1) 0

/-- R177 (b): rotate left by one position, substitute each byte, XOR the first byte with `RCON[j]`. -/
def scheduleCore (t : Tables) (j : Nat) (w : Column) : Column :=
  ⟨t.sub w.b1 ^^^ rcon j, t.sub w.b2, t.sub w.b3, t.sub w.b0⟩

/-- R177: column `i` of the schedule from the four columns before it: (a) the previous column, (b) transformed when
`i mod 4 = 0`, (c) XORed with the column 4 positions earlier. `w` holds columns `i−4` to `i−1` in order. -/
def nextColumn (t : Tables) (i : Nat) (w : Block) : Column :=
  w.c0.xor (if i % 4 = 0 then scheduleCore t (i / 4) w.c3 else w.c3)

/-- R177: the `n` columns from column `i` on. -/
def columnsFrom (t : Tables) : (n i : Nat) → (w : Block) → List Column
  | 0, _, _ => []
  | n + 1, i, w => nextColumn t i w :: columnsFrom t n (i + 1) ⟨w.c1, w.c2, w.c3, nextColumn t i w⟩

/-- R177: `W[0]` to `W[43]`: the key's own 4 columns, then the 40 derived ones. -/
def scheduleColumns (t : Tables) (key : Block) : List Column :=
  key.c0 :: key.c1 :: key.c2 :: key.c3 :: columnsFrom t (Config.scheduleColumns - 4) 4 key

/-- R177: regroup columns into four-column matrices. -/
def regroup : List Column → List Block
  | w0 :: w1 :: w2 :: w3 :: rest => ⟨w0, w1, w2, w3⟩ :: regroup rest
  | _ => []

theorem regroup_scheduleColumns_length (t : Tables) (key : Block) : (regroup (scheduleColumns t key)).length = 11 :=
  rfl

/-- R177: `expandKey(key)`. -/
def expandKey (t : Tables) (key : Block) : RoundKeys :=
  ⟨⟨regroup (scheduleColumns t key)⟩, regroup_scheduleColumns_length t key⟩

/-- R178: `LOADKEY`. -/
def execLoadkey (p : Bytes) (s : State) : Host.Outcome State Fault Refusal := finish s do
  let key ← blockOperand .invalidKeySize p
  let t ← requireT s
  .ok (s.setRk (some (expandKey t key)), [])

/-- R180: `RDRK`. -/
def execRdrk (p : Bytes) (s : State) : Host.Outcome State Fault Refusal := finish s do
  let r ← roundKeyIndex p
  let k ← requireK s
  .ok (s, (k.get r).toBytes)

/-- R179: `CLRKEY`. -/
def execClrkey (p : Bytes) (s : State) : Host.Outcome State Fault Refusal := finish s do
  noOperand p
  .ok (((s.setRk none).setCtr none).setMatrix none, [])

end Sys2Proof.Machine
end

