-- ==== Sys2Proof/Machine/BlockCipher.lean ====
section
/-! DEFINITION. The block cipher core (spec/44_block_cipher.md): the sequencer's stages, the two block functions and
the commands `ENCB`, `DECB`. -/

namespace Sys2Proof.Machine

/-- R191: what one stage of an encryption does while `RND` = `r`: Initial (0), Round[1..9], Final (10). -/
def encryptStage (t : Tables) (k : RoundKeys) (b : Block) (r : Fin 11) : Block :=
  if r.val = 0 then addRoundKey b (k.get r)
  else if r.val < Config.rounds then addRoundKey (mixColumns (shiftRows (substituteBytes t b))) (k.get r)
  else addRoundKey (shiftRows (substituteBytes t b)) (k.get r)

/-- R193: what one stage of a decryption does while `RND` = `r`: undo Final (10), Round[9..1], Initial (0). -/
def decryptStage (t : Tables) (k : RoundKeys) (b : Block) (r : Fin 11) : Block :=
  if r.val = 0 then addRoundKey b (k.get r)
  else if r.val < Config.rounds then
    invSubstituteBytes t (invShiftRows (invMixColumns (addRoundKey b (k.get r))))
  else invSubstituteBytes t (invShiftRows (addRoundKey b (k.get r)))

/-- R31: the values `RND` takes during one block encryption, in order. -/
def rndSequence : List (Fin 11) := [0, 1, 2, 3, 4, 5, 6, 7, 8, 9, 10]

/-- R191: `encryptBlock(b)`, `RND` stepping 0 to 10. -/
def encryptBlock (t : Tables) (k : RoundKeys) (b : Block) : Block := rndSequence.foldl (encryptStage t k) b

/-- R193: `decryptBlock(b)`, `RND` stepping 10 down to 0. -/
def decryptBlock (t : Tables) (k : RoundKeys) (b : Block) : Block := rndSequence.reverse.foldl (decryptStage t k) b

/-- R192: `ENCB`. -/
def execEncb (p : Bytes) (s : State) : Host.Outcome State Fault Refusal := finish s do
  let b ← blockOperand .invalidBlockSize p
  let k ← requireK s
  let t ← requireT s
  .ok (s.endCipher, (encryptBlock t k b).toBytes)

/-- R194: `DECB`. -/
def execDecb (p : Bytes) (s : State) : Host.Outcome State Fault Refusal := finish s do
  let b ← blockOperand .invalidBlockSize p
  let k ← requireK s
  let t ← requireT s
  .ok (s.endCipher, (decryptBlock t k b).toBytes)

end Sys2Proof.Machine
end

