-- ==== Sys2Proof/Machine/CtrStreamer.lean ====
section
/-! DEFINITION. The counter-mode streamer (spec/45_ctr_streamer.md): the counter increment, the padding, the keystream
loop and the commands `LOADIV`, `RDCTR`, `INCCTR`, `PAD`, `UNPAD`, `ENCS`, `DECS`. -/

namespace Sys2Proof.Machine

/-- R207: one byte of the walk. With a carry into it, "on a byte equal to 0xFF reset to 0 and carry to the previous
byte; otherwise increment and stop"; without one it stays. The second component is the carry out. -/
def incByte (b : Byte) (carry : Bool) : Byte × Bool :=
  if carry then (if b = 0xff then (0x00, true) else (b + 1, false)) else (b, false)

/-- R207: the walk over a column, from its last byte backward. -/
def incColumn (w : Column) (carry : Bool) : Column × Bool :=
  let r3 := incByte w.b3 carry
  let r2 := incByte w.b2 r3.2
  let r1 := incByte w.b1 r2.2
  let r0 := incByte w.b0 r1.2
  (⟨r0.1, r1.1, r2.1, r3.1⟩, r0.2)

/-- R207: `incCounter(c)`: the walk from byte 15 to byte 0; the carry out of byte 0 is dropped. -/
def incCounter (c : Block) : Block :=
  let r3 := incColumn c.c3 true
  let r2 := incColumn c.c2 r3.2
  let r1 := incColumn c.c1 r2.2
  let r0 := incColumn c.c0 r1.2
  ⟨r0.1, r1.1, r2.1, r3.1⟩

/-- R208: the number of pad bytes for a message of `len` bytes, in 1..16. -/
def padCount (len : Nat) : Nat := Config.padMax - len % Config.blockBytes

/-- R208: `pad(m)`. -/
def pad (m : Bytes) : Bytes := m ++ List.replicate (padCount m.length) (BitVec.ofNat 8 (padCount m.length))

/-- R209: `unpad(m)`; `none` is `InvalidPadding`. -/
def unpad (m : Bytes) : Option Bytes :=
  match m.getLast? with
  | none => none
  | some n =>
    if m.length % Config.blockBytes ≠ 0 then none
    else if n.toNat < 1 ∨ Config.padMax < n.toNat then none
    else if (m.drop (m.length - n.toNat)).all (· == n) then some (m.take (m.length - n.toNat))
    else none

/-- R210: `ctrXor(d)` over the blocks of `d`, from the counter `c`: each block is XORed with the encryption of the
current counter value, which is then incremented. -/
def ctrXor (t : Tables) (k : RoundKeys) : (c : Block) → List Block → List Block
  | _, [] => []
  | c, d :: ds => d.xor (encryptBlock t k c) :: ctrXor t k (incCounter c) ds

/-- R206: `LOADIV`. -/
def execLoadiv (p : Bytes) (s : State) : Host.Outcome State Fault Refusal := finish s do
  let c ← blockOperand .invalidIVSize p
  .ok (s.setCtr (some c), [])

/-- R211: `RDCTR`. -/
def execRdctr (p : Bytes) (s : State) : Host.Outcome State Fault Refusal := finish s do
  noOperand p
  let c ← requireC s
  .ok (s, c.toBytes)

/-- R212: `INCCTR`. -/
def execIncctr (p : Bytes) (s : State) : Host.Outcome State Fault Refusal := finish s do
  noOperand p
  let c ← requireC s
  .ok (s.setCtr (some (incCounter c)), [])

/-- R215: `PAD`. -/
def execPad (p : Bytes) (s : State) : Host.Outcome State Fault Refusal := finish s do
  let m ← paddableMessage p
  .ok (s, pad m)

/-- R216: `UNPAD`. -/
def execUnpad (p : Bytes) (s : State) : Host.Outcome State Fault Refusal := finish s <|
  match unpad p with
  | some m => .ok (s, m)
  | none => .error .invalidPadding

/-- R213: `ENCS`. The counter the loop leaves is discarded with `CV` <- 0. -/
def execEncs (p : Bytes) (s : State) : Host.Outcome State Fault Refusal := finish s do
  let m ← paddableMessage p
  let k ← requireK s
  let c ← requireC s
  let t ← requireT s
  .ok ((s.setCtr none).endCipher, fromBlocks (ctrXor t k c (toBlocks (pad m))))

/-- R214: `DECS`: the same loop, "no pad, no unpad". -/
def execDecs (p : Bytes) (s : State) : Host.Outcome State Fault Refusal := finish s do
  let d ← wholeBlocks p
  let k ← requireK s
  let c ← requireC s
  let t ← requireT s
  .ok ((s.setCtr none).endCipher, fromBlocks (ctrXor t k c (toBlocks d)))

end Sys2Proof.Machine
end

