-- ==== Sys2Proof/Machine/System.lean ====
section
/-! DEFINITION. The system command `RDSTAT` (spec/46_system.md). -/

namespace Sys2Proof.Machine

/-- R236: `RDSTAT`. It has no `require` and works in every state. -/
def execRdstat (p : Bytes) (s : State) : Host.Outcome State Fault Refusal := finish s do
  noOperand p
  .ok (s, [s.status])

end Sys2Proof.Machine
end

