-- ==== Sys2Proof/Machine/Dispatch.lean ====
section
/-! DEFINITION. The dispatch: one arm per command of the opcode map (spec/30_encoding.md R85). -/

namespace Sys2Proof.Machine

def exec (i : Instr) (s : State) : Host.Outcome State Fault Refusal :=
  match i with
  | .init p => Sys2Proof.Machine.execInit p s
  | .rdstat p => Sys2Proof.Machine.execRdstat p s
  | .gfinv p => Sys2Proof.Machine.execGfinv p s
  | .affine p => Sys2Proof.Machine.execAffine p s
  | .xtime p => Sys2Proof.Machine.execXtime p s
  | .sbox p => Sys2Proof.Machine.execSbox p s
  | .isbox p => Sys2Proof.Machine.execIsbox p s
  | .ldst p => Sys2Proof.Machine.execLdst p s
  | .rdst p => Sys2Proof.Machine.execRdst p s
  | .subb p => Sys2Proof.Machine.execSubb p s
  | .isubb p => Sys2Proof.Machine.execIsubb p s
  | .shrow p => Sys2Proof.Machine.execShrow p s
  | .ishrow p => Sys2Proof.Machine.execIshrow p s
  | .mixc p => Sys2Proof.Machine.execMixc p s
  | .imixc p => Sys2Proof.Machine.execImixc p s
  | .addrk p => Sys2Proof.Machine.execAddrk p s
  | .loadkey p => Sys2Proof.Machine.execLoadkey p s
  | .rdrk p => Sys2Proof.Machine.execRdrk p s
  | .clrkey p => Sys2Proof.Machine.execClrkey p s
  | .encb p => Sys2Proof.Machine.execEncb p s
  | .decb p => Sys2Proof.Machine.execDecb p s
  | .loadiv p => Sys2Proof.Machine.execLoadiv p s
  | .rdctr p => Sys2Proof.Machine.execRdctr p s
  | .incctr p => Sys2Proof.Machine.execIncctr p s
  | .pad p => Sys2Proof.Machine.execPad p s
  | .unpad p => Sys2Proof.Machine.execUnpad p s
  | .encs p => Sys2Proof.Machine.execEncs p s
  | .decs p => Sys2Proof.Machine.execDecs p s

end Sys2Proof.Machine
end

