-- ==== Sys2Proof/Machine/Step.lean ====
section
/-! DEFINITION. One step: the execution of one whole command packet (spec/00_scope.md R6), or a reset, or waiting. -/

namespace Sys2Proof.Machine

/-- One step of the engine. Reset "wins over everything" (R271). Otherwise the packet at the front of the bytes taken
and offered is consumed whole and its command is executed (R60, R83); a packet with an illegal opcode is answered
`IllegalCommand` (R87, R249); of an incomplete packet the engine takes what has come and waits for the rest (R274). -/
def step (s : State) : Host.Outcome State Fault Refusal :=
  if s.rst then .next State.reset
  else
    match decode (s.buffer ++ s.cmd) with
    | .instr i rest => exec i (s.consume rest)
    | .illegalCommand _ _ rest => .next ((s.consume rest).raise .illegalCommand)
    | .incomplete => .next s.hold

/-- `s` with the packet whose table bits are `w` at the front of the command stream, at a packet boundary and with
`rst` released, so that the next step takes and executes it. -/
def State.withFetchWord (s : State) (nbits w : Nat) : State :=
  { s with rst := false, buffer := [], cmd := tableWordPacket nbits w ++ s.cmd }

end Sys2Proof.Machine
end

