-- ==== Sys2Proof/Machine/Engines.lean ====
section
/-! DEFINITION. Several engines side by side (spec/60_exceptions.md R262, spec/20_memory.md R65): "a model of N
engines is N independent copies of the single-engine model". -/

namespace Sys2Proof.Machine

/-- One step of engine `k` of a system: that engine steps, the others stay as they are. A system has no other shared
state (R262); which engine steps next is not the engines' own choice, so it is an argument. -/
def stepEngine (k : Nat) (engines : List State) : List State :=
  match engines[k]? with
  | none => engines
  | some s =>
    match step s with
    | .next s' => engines.set k s'
    | .fault _ => engines
    | .refused _ => engines

end Sys2Proof.Machine
end

