-- ==== Sys2Proof/Safety.lean ====
section
/-! DEFINITION. What counts as a correct run, in terms of the machine: the commands of a run and their fold
(spec/20_memory.md R60), the complete error matrix (spec/60_exceptions.md R242), the flag table (spec/10_state.md R27),
the response stream (spec/30_encoding.md R84), and the invariant of the reachable states (spec/10_state.md R28). -/

namespace Sys2Proof.Machine

/-- R60, R276: `n` steps of the engine, stopping at the first that has no next state. -/
def runSteps : Nat → State → Host.Outcome State Fault Refusal
  | 0, s => .next s
  | n + 1, s =>
    match step s with
    | .next t => runSteps n t
    | .fault r => .fault r
    | .refused r => .refused r

/-- R60, R276: a run of commands: the state after them is the fold of the command rules over the sequence. -/
def runCommands (is : List Instr) (s : State) : State :=
  is.foldl (fun s i => match exec i s with
    | .next s' => s'
    | .fault _ => s
    | .refused _ => s) s

/-- R85: the opcode assignments, as the table lists them, for a packet with payload `p`. -/
def opcodeMap (p : Bytes) : List (Byte × Instr) :=
  [(0x01, .init p), (0x02, .rdstat p), (0x10, .gfinv p), (0x11, .affine p), (0x12, .xtime p), (0x20, .sbox p),
   (0x21, .isbox p), (0x30, .ldst p), (0x31, .rdst p), (0x32, .subb p), (0x33, .isubb p), (0x34, .shrow p),
   (0x35, .ishrow p), (0x36, .mixc p), (0x37, .imixc p), (0x38, .addrk p), (0x40, .loadkey p), (0x41, .rdrk p),
   (0x42, .clrkey p), (0x50, .encb p), (0x51, .decb p), (0x60, .loadiv p), (0x61, .rdctr p), (0x62, .incctr p),
   (0x63, .pad p), (0x64, .unpad p), (0x65, .encs p), (0x66, .decs p)]

/-- R242: "`LEN` not legal" for the command, with the error of its first check. -/
def lengthError : Instr → Option ErrorKind
  | .init p | .rdstat p | .rdst p | .subb p | .isubb p | .shrow p | .ishrow p | .mixc p | .imixc p | .clrkey p
  | .rdctr p | .incctr p => if p.length ≠ 0 then some .invalidOperand else none
  | .gfinv p | .affine p | .xtime p | .sbox p | .isbox p | .addrk p | .rdrk p =>
    if p.length ≠ 1 then some .invalidOperand else none
  | .ldst p | .encb p | .decb p => if p.length ≠ 16 then some .invalidBlockSize else none
  | .loadkey p => if p.length ≠ 16 then some .invalidKeySize else none
  | .loadiv p => if p.length ≠ 16 then some .invalidIVSize else none
  | .pad p | .encs p => if 16777199 < p.length then some .invalidOperand else none
  | .decs p => if p.length % 16 ≠ 0 then some .invalidBlockSize else none
  | .unpad _ => none

/-- R244 (3): the operand-value check of `ADDRK` and `RDRK`. -/
def operandError : Instr → Option ErrorKind
  | .addrk p | .rdrk p => if p.any (fun r => decide (10 < r.toNat)) then some .invalidOperand else none
  | _ => none

/-- R242: whether a command requires the tables, the key, the counter, the State Matrix. -/
def requirements : Instr → Bool × Bool × Bool × Bool
  | .sbox _ | .isbox _ | .loadkey _ => (true, false, false, false)
  | .subb _ | .isubb _ => (true, false, false, true)
  | .rdst _ | .shrow _ | .ishrow _ | .mixc _ | .imixc _ => (false, false, false, true)
  | .addrk _ => (false, true, false, true)
  | .rdrk _ | .encb _ | .decb _ => (false, true, false, false)
  | .rdctr _ | .incctr _ => (false, false, true, false)
  | .encs _ | .decs _ => (false, true, true, false)
  | _ => (false, false, false, false)

/-- R244 (4): the state checks, in the order `NotInitialised`, `NoKey`, `NoIV`, `NoState`. -/
def stateError (i : Instr) (s : State) : Option ErrorKind :=
  if (requirements i).1 && !s.tv then some .notInitialised
  else if (requirements i).2.1 && !s.kv then some .noKey
  else if (requirements i).2.2.1 && !s.cv then some .noIV
  else if (requirements i).2.2.2 && !s.sv then some .noState
  else none

/-- R209: the pad test: the payload is not empty, its length is a multiple of 16, its last byte `n` is in 1..16 and
the last `n` bytes all equal `n`. -/
def isPadded (m : Bytes) : Bool :=
  match m.reverse with
  | [] => false
  | n :: _ => decide (m.length % 16 = 0) && decide (1 ≤ n.toNat) && decide (n.toNat ≤ 16)
      && (m.reverse.take n.toNat).all (· == n)

/-- R244 (5): the content check of `UNPAD`. -/
def contentError : Instr → Option ErrorKind
  | .unpad p => if isPadded p then none else some .invalidPadding
  | _ => none

/-- R242, R244: the complete error matrix: the error a command answers, `none` where it completes. -/
def errorOf (i : Instr) (s : State) : Option ErrorKind :=
  ((lengthError i).or (operandError i)).or ((stateError i s).or (contentError i))

/-- R27: the flags `TV`, `KV`, `CV`, `SV` after a command that completes, from those before it. -/
def flagsAfter (i : Instr) (tv kv cv sv : Bool) : Bool × Bool × Bool × Bool :=
  match i with
  | .init _ => (true, kv, cv, sv)
  | .loadkey _ => (tv, true, cv, sv)
  | .clrkey _ => (tv, false, false, false)
  | .loadiv _ => (tv, kv, true, sv)
  | .ldst _ => (tv, kv, cv, true)
  | .encb _ | .decb _ => (tv, kv, cv, false)
  | .encs _ | .decs _ => (tv, kv, false, false)
  | _ => (tv, kv, cv, sv)

/-- R84, R241, R88: a response packet the engine may send: `OK` with a payload whose length fits `RLEN`, or one of the
error codes the engine uses, with no payload. -/
def isResponse (stat : Byte) (payload : Bytes) : Prop :=
  (stat = 0x00 ∧ payload.length ≤ Config.maxLen)
    ∨ (stat ∈ ([0x01, 0x02, 0x03, 0x04, 0x10, 0x11, 0x12, 0x13, 0x14, 0x15] : List Byte) ∧ payload = [])

/-- R84: the bytes of a sequence of response packets. -/
def isResponseStream (bytes : Bytes) : Prop :=
  ∃ rs : List (Byte × Bytes), bytes = rs.flatMap (fun r => headerBytes r.1 r.2.length ++ r.2)
    ∧ ∀ r ∈ rs, isResponse r.1 r.2

/-- What holds in every state a run reaches. -/
structure Inv (s : State) : Prop where
  /-- R28: `KV` = 1 implies `TV` = 1. -/
  keyed : s.kv = true → s.tv = true
  /-- R24: tables that hold a value are those `buildTables` computes. -/
  tablesBuilt : ∀ t, s.tables = some t → t = buildTables
  /-- R23, R181: a schedule that holds a value is the expansion of its own `RK[0]`. -/
  schedule : ∀ k, s.rk = some k → k = expandKey buildTables (k.get 0)
  /-- R31: between commands `ACTIVE` = 0 and `RND` = 0. -/
  idle : s.rnd = 0 ∧ s.active = false
  /-- R32: the message buffer holds no whole packet. -/
  waiting : decode s.buffer = .incomplete
  /-- R84: what has been sent is a sequence of response packets. -/
  responses : isResponseStream s.rsp

/-- R149: the matrix of the forward mixing, decision D2; row `r`, column `j`. -/
def mixMatrix (r j : Fin 4) : Byte :=
  (([[0x02, 0x03, 0x01, 0x01], [0x01, 0x02, 0x03, 0x01], [0x01, 0x01, 0x02, 0x03],
    [0x03, 0x01, 0x01, 0x02]] : List (List Byte)).getD r.val []).getD j.val 0

/-- R150: the matrix of the inverse mixing. -/
def invMixMatrix (r j : Fin 4) : Byte :=
  (([[0x0e, 0x0b, 0x0d, 0x09], [0x09, 0x0e, 0x0b, 0x0d], [0x0d, 0x09, 0x0e, 0x0b],
    [0x0b, 0x0d, 0x09, 0x0e]] : List (List Byte)).getD r.val []).getD j.val 0

/-- R149: row `r` of the product of a matrix with a column: "products by gmul, sums by ^". -/
def matrixRow (mat : Fin 4 → Fin 4 → Byte) (a : Column) (r : Fin 4) : Byte :=
  gmul (mat r 0) a.b0 ^^^ gmul (mat r 1) a.b1 ^^^ gmul (mat r 2) a.b2 ^^^ gmul (mat r 3) a.b3

/-- R181: the round key after `prev` in the schedule, the `j`-th derived one, with `RCON[j]` = `c`. -/
def nextRoundKey (t : Tables) (c : Byte) (prev : Block) : Block :=
  let w0 := prev.c0.xor ⟨t.sub prev.c3.b1 ^^^ c, t.sub prev.c3.b2, t.sub prev.c3.b3, t.sub prev.c3.b0⟩
  let w1 := prev.c1.xor w0
  let w2 := prev.c2.xor w1
  ⟨w0, w1, w2, prev.c3.xor w2⟩

/-- R90, R191: one block encryption by the primitive commands: `ADDRK 00`, `ROUND 01` to `ROUND 09`, `FINAL`. -/
def encryptByHand : List Instr :=
  [.addrk [0x00]] ++ ([0x01, 0x02, 0x03, 0x04, 0x05, 0x06, 0x07, 0x08, 0x09] : List Byte).flatMap
    (fun rr => (Pseudo.round rr).expand) ++ Pseudo.final.expand

/-- R90, R193: one block decryption by the primitive commands: `IFINAL`, `IROUND 09` to `IROUND 01`, `ADDRK 00`. -/
def decryptByHand : List Instr :=
  Pseudo.ifinal.expand ++ ([0x09, 0x08, 0x07, 0x06, 0x05, 0x04, 0x03, 0x02, 0x01] : List Byte).flatMap
    (fun rr => (Pseudo.iround rr).expand) ++ [.addrk [0x00]]

/-- R280: the counter values, as numbers, that a stream command of `k` blocks started at counter `c` encrypts. -/
def countersUsed (c : Block) (k : Nat) : List Nat := (List.range k).map fun j => (c.toNat + j) % 2 ^ 128

/-- R280: the host's obligation for two messages under one key: "the ranges of two messages under one key must not
overlap". The engine does not check it. -/
def countersDisjoint (c : Block) (k : Nat) (c' : Block) (k' : Nat) : Prop :=
  ∀ n ∈ countersUsed c k, n ∉ countersUsed c' k'

/-- R284: the host has ended the life of the key. -/
def keyDisposed (s : State) : Prop := s.kv = false ∧ s.cv = false ∧ s.sv = false

end Sys2Proof.Machine
end

