-- ==== Sys2Proof/Certificates/Slice0/Obligations.lean ====
section
/-! DEFINITION. The statements for the provers, from the numbered rules of spec/. A clause on `s.raise e` or
`s.respond v` says the whole next state: `ResponsesChangeOnlyTheResponsePort` says what these two hold. -/

open Sys2Proof Sys2Proof.Machine

/-! ### Packets: decoding and encoding -/

/-- spec/30_encoding.md R82, R83, R92: decoding the packet of any instruction, whatever follows it, gives the
instruction back and leaves what follows. -/
def Obligations.DecodeOfEncodeIsTheInstruction : Prop :=
  ∀ (i : Instr) (rest : Bytes), i.wellFormed = true → decode (encode i ++ rest) = .instr i rest

/-- spec/30_encoding.md R82, R83: the decoder drops no bit: what it reads as an instruction is that instruction's own
packet, and the rest is untouched. -/
def Obligations.DecodedBytesAreTheInstructionsPacket : Prop :=
  ∀ (bytes : Bytes) (i : Instr) (rest : Bytes), decode bytes = .instr i rest →
    i.wellFormed = true ∧ bytes = encode i ++ rest

/-- spec/30_encoding.md R85, R87: the opcode map: each of the 28 opcodes selects its command, whatever the payload, and
is the one that command is sent with; the other 228 values are illegal. -/
def Obligations.OpcodeMapSelectsTheListedCommands : Prop :=
  ∀ p : Bytes, (∀ r ∈ opcodeMap p, decodeOpcode r.1 p = some r.2 ∧ r.2.opcode = r.1 ∧ r.2.payload = p) ∧
    ∀ opc : Byte, decodeOpcode opc p = none ↔ ∀ r ∈ opcodeMap p, r.1 ≠ opc

/-- spec/30_encoding.md R83, R92: decoding is total; a stream holds no whole packet exactly when it is shorter than a
header or than the header's `LEN` says. -/
def Obligations.IncompleteExactlyWhenPacketIsShort : Prop :=
  ∀ bytes : Bytes, decode bytes = .incomplete ↔
    ∀ (h0 h1 h2 h3 : Byte) (tail : Bytes), bytes = h0 :: h1 :: h2 :: h3 :: tail →
      tail.length < h1.toNat * 65536 + h2.toNat * 256 + h3.toNat

/-- spec/95_test_vectors.md section 2.1: packets written out byte by byte decode to the commands they stand for. -/
def Obligations.SamplePacketsDecode : Prop :=
  decode [0x02, 0x00, 0x00, 0x00] = .instr (.rdstat []) [] ∧
  decode [0x10, 0x00, 0x00, 0x01, 0x53] = .instr (.gfinv [0x53]) [] ∧
  decode [0x38, 0x00, 0x00, 0x01, 0x0b, 0x32] = .instr (.addrk [0x0b]) [0x32] ∧
  decode [0x63, 0x00, 0x00, 0x05, 0x68, 0x65, 0x6c, 0x6c, 0x6f] = .instr (.pad [0x68, 0x65, 0x6c, 0x6c, 0x6f]) [] ∧
  decode [0x00, 0x00, 0x00, 0x01, 0x00, 0x01] = .illegalCommand 0x00 [0x00] [0x01] ∧
  decode [0x20, 0x00, 0x00, 0x01] = .incomplete

/-! ### The step -/

/-- spec/20_memory.md R60, spec/30_encoding.md R83: when the bytes taken and offered begin with the packet of a
command, the step consumes that packet whole and executes the command. -/
def Obligations.StepRunsTheDecodedCommand : Prop :=
  ∀ (s : State) (i : Instr) (rest : Bytes), s.rst = false → decode (s.buffer ++ s.cmd) = .instr i rest →
    step s = exec i { s with buffer := [], cmd := rest }

/-- spec/60_exceptions.md R249, spec/30_encoding.md R87: a whole packet with an undefined opcode is consumed, answered
`IllegalCommand` (0x10, no payload), and nothing else changes. -/
def Obligations.StepAnswersIllegalCommand : Prop :=
  ∀ (s : State) (opc : Byte) (payload rest : Bytes), s.rst = false → (∀ p, decodeOpcode opc p = none) →
    payload.length ≤ 16777215 → s.buffer ++ s.cmd = headerBytes opc payload.length ++ payload ++ rest →
    step s = .next { s with buffer := [], cmd := rest, rsp := s.rsp ++ [0x10, 0x00, 0x00, 0x00] }

/-- spec/70_reset_and_hazards.md R274: on an incomplete packet the engine waits: it answers nothing, no register
changes, and what has come is the beginning of that packet. That the bytes move to the buffer in the step is the
model's choice (notes/assumptions/5.md). -/
def Obligations.StepWaitsForTheRestOfAPacket : Prop :=
  ∀ s : State, s.rst = false → decode (s.buffer ++ s.cmd) = .incomplete →
    step s = .next { s with buffer := s.buffer ++ s.cmd, cmd := [] }

/-- spec/70_reset_and_hazards.md R271: reset wins over everything, whatever the engine holds. That the byte streams
are empty afterwards and that one step releases `rst` is the model's choice (notes/assumptions/3.md). -/
def Obligations.ResetWinsOverEverything : Prop :=
  ∀ s : State, s.rst = true → step s = .next State.reset

/-- spec/70_reset_and_hazards.md R270: the reset state. -/
def Obligations.ResetLeavesEverythingAbsent : Prop :=
  State.reset.tv = false ∧ State.reset.kv = false ∧ State.reset.cv = false ∧ State.reset.sv = false ∧
  State.reset.status = 0x00 ∧ State.reset.matrix = none ∧ State.reset.ctr = none ∧ State.reset.rk = none ∧
  State.reset.tables = none ∧ State.reset.rnd = 0 ∧ State.reset.active = false ∧ State.reset.buffer = [] ∧
  State.reset.busy = false ∧ State.reset.rsp = []

/-- spec/70_reset_and_hazards.md R276: the engine never halts: from every state there is a next state. That waiting and
reset are steps of the model is its choice (notes/assumptions/3.md, 5.md). -/
def Obligations.EveryStepHasANextState : Prop := ∀ s : State, ∃ t, step s = .next t

/-- spec/20_memory.md R60: a sequence of packets put on the command port of an idle engine is executed one at a time,
in order: the state after as many steps as packets is the fold of the command rules over the sequence. That the host
takes every response at once, so that no back-pressure of spec/70_reset_and_hazards.md R273(g) holds a packet back, is
the model's choice (notes/assumptions/2.md). -/
def Obligations.PacketStreamRunsAsTheFoldOfItsCommands : Prop :=
  ∀ (is : List Instr) (s : State), s.rst = false → s.buffer = [] → s.cmd = [] →
    (∀ i ∈ is, i.wellFormed = true) →
    runSteps is.length (s.hostSend (is.flatMap encode)) = .next (runCommands is s)

/-! ### Errors and responses -/

/-- spec/60_exceptions.md R245, spec/30_encoding.md R84: an error response is its code and three zero bytes, an `OK`
response is 0x00, the length most significant byte first, and the payload; nothing but the response port changes. -/
def Obligations.ResponsesChangeOnlyTheResponsePort : Prop :=
  ∀ s : State,
    (∀ e, s.raise e = { s with rsp := s.rsp ++ [e.code, 0x00, 0x00, 0x00] }) ∧
    (∀ v : Bytes, s.respond v = { s with
      rsp := s.rsp ++ ([0x00, BitVec.ofNat 8 (v.length / 65536), BitVec.ofNat 8 (v.length / 256),
        BitVec.ofNat 8 v.length] ++ v) })

/-- spec/60_exceptions.md R241: the codes of the error kinds. -/
def Obligations.ErrorKindsHaveTheirCodes : Prop :=
  ([.invalidKeySize, .invalidBlockSize, .invalidIVSize, .invalidPadding, .shortCiphertext, .authenticationFailure,
    .decodeError, .illegalCommand, .invalidOperand, .notInitialised, .noKey, .noIV, .noState] : List ErrorKind).map
      ErrorKind.code
    = [0x01, 0x02, 0x03, 0x04, 0x05, 0x06, 0x07, 0x10, 0x11, 0x12, 0x13, 0x14, 0x15]

/-- spec/60_exceptions.md R242, R244: the complete error matrix: every command answers the first error its checks find,
and completes where they find none, for every payload and every state in which `KV` = 1 implies `TV` = 1 (R28, which
`InvariantHoldsAfterEveryStep` keeps). -/
def Obligations.EveryCommandFollowsTheErrorMatrix : Prop :=
  ∀ (i : Instr) (s : State), (s.kv = true → s.tv = true) →
    (∀ e, errorOf i s = some e → exec i s = .next (s.raise e)) ∧
    (errorOf i s = none → ∃ (t : State) (v : Bytes), exec i s = .next (t.respond v) ∧ t.rsp = s.rsp)

/-- spec/60_exceptions.md R245: whenever a command's response has a status other than `OK`, the response is that
status alone and no other part of the state has changed. -/
def Obligations.FailedCommandChangesNothing : Prop :=
  ∀ (i : Instr) (s t : State) (c : Byte) (more : Bytes), exec i s = .next t → t.rsp = s.rsp ++ c :: more → c ≠ 0x00 →
    t = { s with rsp := s.rsp ++ [c, 0x00, 0x00, 0x00] }

/-- spec/60_exceptions.md R243: whether a command fails, and with which kind, depends on the packet and the four flags
only. -/
def Obligations.ErrorsDependOnPacketAndFlagsOnly : Prop :=
  ∀ (i : Instr) (s u : State) (e : ErrorKind), s.status = u.status →
    exec i s = .next (s.raise e) → exec i u = .next (u.raise e)

/-- spec/30_encoding.md R84, R88: every command packet gets exactly one response packet, of a form R84 allows and with
a status the engine uses; a payload's length always fits `RLEN`. -/
def Obligations.EveryCommandSendsExactlyOneResponse : Prop :=
  ∀ (i : Instr) (s : State), i.wellFormed = true → ∃ (t : State) (stat : Byte) (payload : Bytes),
    exec i s = .next t ∧ isResponse stat payload ∧ t.rsp = s.rsp ++ (headerBytes stat payload.length ++ payload)

/-! ### Flags and invariants -/

/-- spec/10_state.md R27: the complete table of flag writes: a completing command writes the flags its row says, a
command that ends with an error writes none, and reset clears all four. -/
def Obligations.FlagWritesFollowTheTable : Prop :=
  (∀ (i : Instr) (s t : State), (s.kv = true → s.tv = true) → exec i s = .next t →
    (errorOf i s = none → (t.tv, t.kv, t.cv, t.sv) = flagsAfter i s.tv s.kv s.cv s.sv) ∧
    (errorOf i s ≠ none → (t.tv, t.kv, t.cv, t.sv) = (s.tv, s.kv, s.cv, s.sv))) ∧
  (State.reset.tv, State.reset.kv, State.reset.cv, State.reset.sv) = (false, false, false, false)

/-- spec/10_state.md R23, R24, R28, R31, R32, spec/30_encoding.md R84: the invariant of the reachable states is kept by
every step: the key schedule is the expansion of its own first round key and stands only over built tables, the tables
are the built ones, the sequencer is idle, the buffer holds no whole packet, the response stream is whole packets. That
the sent bytes are kept as one record, and the waiting and reset steps, are the model's choice
(notes/assumptions/2.md, 3.md, 5.md). -/
def Obligations.InvariantHoldsAfterEveryStep : Prop :=
  ∀ s t : State, Inv s → step s = .next t → Inv t

/-- spec/70_reset_and_hazards.md R270: the invariant holds at reset. -/
def Obligations.InvariantHoldsAtReset : Prop := Inv State.reset

/-- spec/10_state.md R24, R28: once built, the tables stay as they are until reset. -/
def Obligations.TablesStayUntilReset : Prop :=
  ∀ (s t : State) (tb : Tables), s.rst = false → s.tables = some tb → step s = .next t → t.tables = some tb

/-- spec/20_memory.md R58: the reads and the pure functions change no state: only the response is new. -/
def Obligations.ReadsAndPureFunctionsChangeNothing : Prop :=
  ∀ (s t : State) (p : Bytes) (i : Instr),
    i ∈ [.rdstat p, .rdst p, .rdrk p, .rdctr p, .sbox p, .isbox p, .gfinv p, .affine p, .xtime p, .pad p, .unpad p] →
    exec i s = .next t → t = { s with rsp := t.rsp }

/-- spec/20_memory.md R58: issuing `INIT`, `LOADKEY`, `LOADIV`, `LDST` or `CLRKEY` twice with the same payload leaves
the same registers as once. -/
def Obligations.LoadsAndInitAreIdempotent : Prop :=
  ∀ (s t u : State) (p : Bytes) (i : Instr), i ∈ [.init p, .loadkey p, .loadiv p, .ldst p, .clrkey p] →
    exec i s = .next t → exec i t = .next u → u = { t with rsp := u.rsp }

/-- spec/46_system.md R236, spec/10_state.md R29: `RDSTAT` answers the four flags in bits 0 to 3 and 0 in bits 7:4, in
every state; with R28 only the 12 values in which bit 1 implies bit 0 occur. -/
def Obligations.RdstatAnswersTheFlags : Prop :=
  ∀ s : State,
    exec (.rdstat []) s = .next (s.respond [s.status]) ∧
    (∀ p, p.length ≠ 0 → exec (.rdstat p) s = .next (s.raise .invalidOperand)) ∧
    s.status.getLsbD 0 = s.tv ∧ s.status.getLsbD 1 = s.kv ∧ s.status.getLsbD 2 = s.cv ∧ s.status.getLsbD 3 = s.sv ∧
    (∀ n, 4 ≤ n → s.status.getLsbD n = false) ∧
    ((s.kv = true → s.tv = true) → s.status ∈
      ([0x00, 0x01, 0x03, 0x04, 0x05, 0x07, 0x08, 0x09, 0x0b, 0x0c, 0x0d, 0x0f] : List Byte))

/-! ### GF(2⁸) algebra -/

/-- spec/40_gf_algebra.md R116, R117, R118: `GFINV`, `AFFINE` and `XTIME` answer their function of `P[0]`, in every
state and for every byte; any other `LEN` is `InvalidOperand`. -/
def Obligations.AlgebraCommandsAnswerTheirFunctions : Prop :=
  ∀ s : State,
    (∀ x : Byte, encode (.gfinv [x]) = [0x10, 0x00, 0x00, 0x01, x] ∧
      exec (.gfinv [x]) s = .next (s.respond [inverse x])) ∧
    (∀ x : Byte, encode (.affine [x]) = [0x11, 0x00, 0x00, 0x01, x] ∧
      exec (.affine [x]) s = .next (s.respond [affineTransform x])) ∧
    (∀ a : Byte, encode (.xtime [a]) = [0x12, 0x00, 0x00, 0x01, a] ∧
      exec (.xtime [a]) s = .next (s.respond [xtime a])) ∧
    (∀ p : Bytes, p.length ≠ 1 → exec (.gfinv p) s = .next (s.raise .invalidOperand) ∧
      exec (.affine p) s = .next (s.raise .invalidOperand) ∧ exec (.xtime p) s = .next (s.raise .invalidOperand))

/-- spec/40_gf_algebra.md R110, R112: `xtime` is doubling reduced by 0x11B, and is linear over `^`. -/
def Obligations.XtimeDoublesModuloTheFieldPolynomial : Prop :=
  (∀ a : Byte, (xtime a).toNat = if a.toNat < 128 then 2 * a.toNat else (2 * a.toNat) ^^^ 0x11b) ∧
  (∀ a b : Byte, xtime (a ^^^ b) = xtime a ^^^ xtime b)

/-- spec/40_gf_algebra.md R113: the laws of the field product. -/
def Obligations.ProductObeysTheFieldLaws : Prop :=
  ∀ a b c : Byte, gmul a b = gmul b a ∧ gmul (gmul a b) c = gmul a (gmul b c) ∧
    gmul a (b ^^^ c) = gmul a b ^^^ gmul a c ∧ gmul a 0x00 = 0x00 ∧ gmul a 0x01 = a ∧ gmul a 0x02 = xtime a ∧
    gmul a 0x03 = xtime a ^^^ a

/-- spec/40_gf_algebra.md R114: `inverse(0)` = 0, and for every other byte `inverse(x)` is the one byte whose product
with `x` is 1. -/
def Obligations.InverseIsTheFieldInverse : Prop :=
  inverse 0x00 = 0x00 ∧ ∀ x : Byte, x ≠ 0x00 → ∀ y : Byte, gmul x y = 0x01 ↔ y = inverse x

/-- spec/40_gf_algebra.md R114: the inverse is the 254th power, the spec's reference algorithm. -/
def Obligations.InverseIsThe254thPower : Prop := ∀ x : Byte, inverse x = gpow x 254

/-- spec/40_gf_algebra.md R115: bit i of the affine transform is x_i ^ x_(i+4) ^ x_(i+5) ^ x_(i+6) ^ x_(i+7) ^ c_i, the
indices modulo 8, c = 0x63. -/
def Obligations.AffineTransformBitByBit : Prop :=
  ∀ (x : Byte) (i : Nat), i < 8 → (affineTransform x).getLsbD i =
    (x.getLsbD i ^^ x.getLsbD ((i + 4) % 8) ^^ x.getLsbD ((i + 5) % 8) ^^ x.getLsbD ((i + 6) % 8)
      ^^ x.getLsbD ((i + 7) % 8) ^^ (0x63#8).getLsbD i)

/-! ### Substitution tables -/

/-- spec/41_sbox_builder.md R132: `INIT` builds the tables when `TV` = 0 and writes nothing when `TV` = 1; any other
`LEN` is `InvalidOperand`. -/
def Obligations.InitBuildsTheTablesOnce : Prop :=
  ∀ s : State,
    (s.tables = none → exec (.init []) s = .next ({ s with tables := some buildTables }.respond [])) ∧
    (s.tables ≠ none → exec (.init []) s = .next (s.respond [])) ∧
    (∀ p, p.length ≠ 0 → exec (.init p) s = .next (s.raise .invalidOperand))

/-- spec/41_sbox_builder.md R131, R137: the built tables are `affineTransform(inverse(x))` and its inverse
permutation, in both orders, with no fixed point and no opposite fixed point. -/
def Obligations.BuiltTablesAreInversePermutations : Prop :=
  ∀ x : Byte, buildTables.sub x = affineTransform (inverse x) ∧ buildTables.invSub (buildTables.sub x) = x ∧
    buildTables.sub (buildTables.invSub x) = x ∧ buildTables.sub x ≠ x ∧ buildTables.sub x ≠ x ^^^ 0xff

/-- spec/41_sbox_builder.md R135, R136: `SBOX` and `ISBOX` answer the entry of the table, for every byte; before `INIT`
they answer `NotInitialised`, after the length check. -/
def Obligations.LookupCommandsAnswerTheEntry : Prop :=
  ∀ s : State,
    (∀ x : Byte, encode (.sbox [x]) = [0x20, 0x00, 0x00, 0x01, x] ∧ encode (.isbox [x]) = [0x21, 0x00, 0x00, 0x01, x]) ∧
    (∀ (t : Tables) (x : Byte), s.tables = some t →
      exec (.sbox [x]) s = .next (s.respond [t.sbox.get x.toFin]) ∧
      exec (.isbox [x]) s = .next (s.respond [t.invSbox.get x.toFin])) ∧
    (∀ x : Byte, s.tables = none → exec (.sbox [x]) s = .next (s.raise .notInitialised) ∧
      exec (.isbox [x]) s = .next (s.raise .notInitialised)) ∧
    (∀ p : Bytes, p.length ≠ 1 → exec (.sbox p) s = .next (s.raise .invalidOperand) ∧
      exec (.isbox p) s = .next (s.raise .invalidOperand))

/-! ### Block transform -/

/-- spec/42_block_transform.md R152, R153, spec/20_memory.md R52: `LDST` makes the State Matrix whose element in row r,
column c is `P[r + 4c]`, and `RDST` answers those bytes in payload order. -/
def Obligations.LdstThenRdstKeepsTheBlock : Prop :=
  ∀ (s : State) (p : Bytes),
    (p.length = 16 → encode (.ldst p) = [0x30, 0x00, 0x00, 0x10] ++ p) ∧
    encode (.rdst []) = [0x31, 0x00, 0x00, 0x00] ∧
    (p.length = 16 → ∃ m : Block, exec (.ldst p) s = .next ({ s with matrix := some m }.respond []) ∧
      (∀ r c : Fin 4, p[r.val + 4 * c.val]? = some (m.get r c)) ∧
      (∀ u : State, u.matrix = some m → exec (.rdst []) u = .next (u.respond p))) ∧
    (p.length ≠ 16 → exec (.ldst p) s = .next (s.raise .invalidBlockSize)) ∧
    (s.matrix = none → exec (.rdst []) s = .next (s.raise .noState)) ∧
    (p.length ≠ 0 → exec (.rdst p) s = .next (s.raise .invalidOperand))

/-- spec/42_block_transform.md R145, R146, R154, R155: `SUBB` and `ISUBB` replace every element of the State Matrix by
its entry in the forward and the inverse table, independently of its position. -/
def Obligations.SubbAndIsubbReplaceEachElement : Prop :=
  ∀ (s : State) (t : Tables) (m : Block), s.tables = some t → s.matrix = some m →
    (∃ m' : Block, exec (.subb []) s = .next ({ s with matrix := some m' }.respond []) ∧
      ∀ r c, m'.get r c = t.sbox.get (m.get r c).toFin) ∧
    (∃ m' : Block, exec (.isubb []) s = .next ({ s with matrix := some m' }.respond []) ∧
      ∀ r c, m'.get r c = t.invSbox.get (m.get r c).toFin)

/-- spec/42_block_transform.md R147, R148, R156, R157: `SHROW` takes to row r, column c the element of column c + r
modulo 4, `ISHROW` that of column c − r; no tables and no key are needed. -/
def Obligations.ShrowAndIshrowRotateTheRows : Prop :=
  ∀ (s : State) (m : Block), s.matrix = some m →
    (∃ m' : Block, exec (.shrow []) s = .next ({ s with matrix := some m' }.respond []) ∧
      ∀ r c : Fin 4, m'.get r c = m.get r (c + r)) ∧
    (∃ m' : Block, exec (.ishrow []) s = .next ({ s with matrix := some m' }.respond []) ∧
      ∀ r c : Fin 4, m'.get r c = m.get r (c - r))

/-- spec/42_block_transform.md R149, R150, R158, R159: `MIXC` and `IMIXC` multiply every column by the fixed matrix and
by its inverse matrix over the field; the `xtime` form equals the matrix form. -/
def Obligations.MixcAndImixcMultiplyByTheMatrices : Prop :=
  ∀ (s : State) (m : Block), s.matrix = some m →
    (∃ m' : Block, exec (.mixc []) s = .next ({ s with matrix := some m' }.respond []) ∧
      ∀ r c : Fin 4, m'.get r c = matrixRow mixMatrix (m.column c) r) ∧
    (∃ m' : Block, exec (.imixc []) s = .next ({ s with matrix := some m' }.respond []) ∧
      ∀ r c : Fin 4, m'.get r c = matrixRow invMixMatrix (m.column c) r)

/-- spec/42_block_transform.md R151, R160: `ADDRK` XORs round key `P[0]` into the State Matrix, element by element, for
the indices 0 to 10; an index above 10 is `InvalidOperand`, before the state is looked at. -/
def Obligations.AddrkXorsTheRoundKey : Prop :=
  ∀ s : State,
    (∀ (k : RoundKeys) (m : Block) (x : Byte) (h : x.toNat < 11), s.rk = some k → s.matrix = some m →
      ∃ m' : Block, exec (.addrk [x]) s = .next ({ s with matrix := some m' }.respond []) ∧
        ∀ r c : Fin 4, m'.get r c = m.get r c ^^^ (k.get ⟨x.toNat, h⟩).get r c) ∧
    (∀ x : Byte, 10 < x.toNat → exec (.addrk [x]) s = .next (s.raise .invalidOperand)) ∧
    (∀ p : Bytes, p.length ≠ 1 → exec (.addrk p) s = .next (s.raise .invalidOperand))

/-- spec/42_block_transform.md R162: each pair of a transform command and its inverse, in either order, and `ADDRK` twice
with the same index, leave the State Matrix as it was, in every state that meets the invariant. -/
def Obligations.InverseCommandPairsRestoreTheMatrix : Prop :=
  ∀ (s : State) (m : Block), Inv s → s.matrix = some m →
    (s.tv = true → (runCommands [.subb [], .isubb []] s).matrix = some m ∧
      (runCommands [.isubb [], .subb []] s).matrix = some m) ∧
    (runCommands [.shrow [], .ishrow []] s).matrix = some m ∧
    (runCommands [.ishrow [], .shrow []] s).matrix = some m ∧
    (runCommands [.mixc [], .imixc []] s).matrix = some m ∧
    (runCommands [.imixc [], .mixc []] s).matrix = some m ∧
    (∀ r : Byte, (runCommands [.addrk [r], .addrk [r]] s).matrix = some m)

/-- spec/42_block_transform.md R162: byte substitution commutes with row rotation, in both directions. -/
def Obligations.SubstitutionCommutesWithRotation : Prop :=
  ∀ (t : Tables) (b : Block), substituteBytes t (shiftRows b) = shiftRows (substituteBytes t b) ∧
    invSubstituteBytes t (invShiftRows b) = invShiftRows (invSubstituteBytes t b)

/-! ### Key schedule -/

/-- spec/43_key_schedule.md R176: `RCON[1]` = 0x01 and `RCON[j+1]` = `xtime(RCON[j])` up to `RCON[10]`. -/
def Obligations.RoundConstantsDouble : Prop :=
  rcon 1 = 0x01 ∧ ∀ j, 1 ≤ j → j < 10 → rcon (j + 1) = xtime (rcon j)

/-- spec/43_key_schedule.md R178, R181: `LOADKEY` with 16 bytes replaces all 11 round keys at once: `RK[0]` is the key
byte for byte, and each later one follows from the one before it and its round constant; `CTR`, `STATE` and their flags
stay. Any other length is `InvalidKeySize`; without tables it is `NotInitialised`. -/
def Obligations.LoadkeyBuildsTheSchedule : Prop :=
  ∀ (s : State) (p : Bytes),
    (∀ t : Tables, p.length = 16 → s.tables = some t → ∃ k : RoundKeys,
      exec (.loadkey p) s = .next ({ s with rk := some k }.respond []) ∧ (k.get 0).toBytes = p ∧
      ∀ r : Fin 10, k.get r.succ = nextRoundKey t (rcon (r.val + 1)) (k.get r.castSucc)) ∧
    (p.length = 16 → s.tables = none → exec (.loadkey p) s = .next (s.raise .notInitialised)) ∧
    (p.length ≠ 16 → exec (.loadkey p) s = .next (s.raise .invalidKeySize))

/-- spec/43_key_schedule.md R180: `RDRK` answers the 16 bytes of round key `P[0]`, for the indices 0 to 10, and changes
nothing. -/
def Obligations.RdrkAnswersTheRoundKey : Prop :=
  ∀ s : State,
    (∀ x : Byte, encode (.rdrk [x]) = [0x41, 0x00, 0x00, 0x01, x]) ∧
    (∀ (k : RoundKeys) (x : Byte) (h : x.toNat < 11), s.rk = some k →
      exec (.rdrk [x]) s = .next (s.respond (k.get ⟨x.toNat, h⟩).toBytes)) ∧
    (∀ x : Byte, x.toNat < 11 → s.rk = none → exec (.rdrk [x]) s = .next (s.raise .noKey)) ∧
    (∀ x : Byte, 10 < x.toNat → exec (.rdrk [x]) s = .next (s.raise .invalidOperand)) ∧
    (∀ p : Bytes, p.length ≠ 1 → exec (.rdrk p) s = .next (s.raise .invalidOperand))

/-- spec/43_key_schedule.md R179: `CLRKEY` takes the key schedule, the counter and the State Matrix away and leaves the
tables, whatever is loaded. -/
def Obligations.ClrkeyDisposesOfKeyCounterAndMatrix : Prop :=
  ∀ s : State,
    encode (.clrkey []) = [0x42, 0x00, 0x00, 0x00] ∧
    exec (.clrkey []) s = .next ({ s with rk := none, ctr := none, matrix := none }.respond []) ∧
    (∀ t, exec (.clrkey []) s = .next t → keyDisposed t) ∧
    (∀ p, p.length ≠ 0 → exec (.clrkey p) s = .next (s.raise .invalidOperand))

/-! ### Block cipher -/

/-- spec/44_block_cipher.md R191, R192: `ENCB` answers the block after the initial key addition, nine full rounds and
the final round without column mixing; the State Matrix is gone, everything else stays. -/
def Obligations.EncbRunsTheTenRounds : Prop :=
  ∀ (s : State) (b : Block),
    (∀ (t : Tables) (k : RoundKeys), s.tables = some t → s.rk = some k →
      exec (.encb b.toBytes) s = .next ({ s with matrix := none, rnd := 0, active := false }.respond
        (addRoundKey (shiftRows (substituteBytes t
          (List.foldl (fun st (r : Fin 11) => addRoundKey (mixColumns (shiftRows (substituteBytes t st))) (k.get r))
            (addRoundKey b (k.get 0)) [1, 2, 3, 4, 5, 6, 7, 8, 9]))) (k.get 10)).toBytes)) ∧
    (s.rk = none → exec (.encb b.toBytes) s = .next (s.raise .noKey)) ∧
    (∀ p : Bytes, p.length ≠ 16 → exec (.encb p) s = .next (s.raise .invalidBlockSize))

/-- spec/44_block_cipher.md R193, R194: `DECB` answers the block after the literal mirror of the encryption: the round
keys 10 down to 0, each step replaced by its inverse. -/
def Obligations.DecbRunsTheMirror : Prop :=
  ∀ (s : State) (b : Block),
    (∀ (t : Tables) (k : RoundKeys), s.tables = some t → s.rk = some k →
      exec (.decb b.toBytes) s = .next ({ s with matrix := none, rnd := 0, active := false }.respond
        (addRoundKey
          (List.foldl (fun st (r : Fin 11) =>
              invSubstituteBytes t (invShiftRows (invMixColumns (addRoundKey st (k.get r)))))
            (invSubstituteBytes t (invShiftRows (addRoundKey b (k.get 10)))) [9, 8, 7, 6, 5, 4, 3, 2, 1])
          (k.get 0)).toBytes)) ∧
    (s.rk = none → exec (.decb b.toBytes) s = .next (s.raise .noKey)) ∧
    (∀ p : Bytes, p.length ≠ 16 → exec (.decb p) s = .next (s.raise .invalidBlockSize))

/-- spec/44_block_cipher.md R195: with the built tables and one schedule, `DECB` of what `ENCB` answers for a block is
that block, and `ENCB` of what `DECB` answers is that block, for every block and every schedule. -/
def Obligations.DecbAndEncbUndoEachOther : Prop :=
  ∀ (s u : State) (k : RoundKeys) (b : Block), s.tables = some buildTables → u.tables = some buildTables →
    s.rk = some k → u.rk = some k →
    (∃ c : Block, exec (.encb b.toBytes) s = .next (s.endCipher.respond c.toBytes) ∧
      exec (.decb c.toBytes) u = .next (u.endCipher.respond b.toBytes)) ∧
    (∃ c : Block, exec (.decb b.toBytes) s = .next (s.endCipher.respond c.toBytes) ∧
      exec (.encb c.toBytes) u = .next (u.endCipher.respond b.toBytes))

/-- spec/30_encoding.md R90, spec/44_block_cipher.md R191, R193: the primitive commands, issued in the round order,
leave in the State Matrix the block that `ENCB`, and in the mirrored order `DECB`, answers. -/
def Obligations.PrimitiveCommandsComputeTheBlockCipher : Prop :=
  ∀ (s : State) (t : Tables) (k : RoundKeys) (m : Block), s.tables = some t → s.rk = some k → s.matrix = some m →
    (∃ c : Block, (runCommands encryptByHand s).matrix = some c ∧
      exec (.encb m.toBytes) s = .next (s.endCipher.respond c.toBytes)) ∧
    (∃ c : Block, (runCommands decryptByHand s).matrix = some c ∧
      exec (.decb m.toBytes) s = .next (s.endCipher.respond c.toBytes))

/-! ### Counter-mode streamer -/

/-- spec/45_ctr_streamer.md R206, R211: `LOADIV` with 16 bytes makes them the counter, needs neither tables nor key, and
`RDCTR` answers them; any other length is `InvalidIVSize`, and `RDCTR` without a counter is `NoIV`. -/
def Obligations.LoadivThenRdctrKeepsTheCounter : Prop :=
  ∀ (s : State) (p : Bytes),
    (p.length = 16 → encode (.loadiv p) = [0x60, 0x00, 0x00, 0x10] ++ p) ∧
    encode (.rdctr []) = [0x61, 0x00, 0x00, 0x00] ∧
    (p.length = 16 → ∃ c : Block, c.toBytes = p ∧ exec (.loadiv p) s = .next ({ s with ctr := some c }.respond []) ∧
      ∀ u : State, u.ctr = some c → exec (.rdctr []) u = .next (u.respond p)) ∧
    (p.length ≠ 16 → exec (.loadiv p) s = .next (s.raise .invalidIVSize)) ∧
    (s.ctr = none → exec (.rdctr []) s = .next (s.raise .noIV)) ∧
    (p.length ≠ 0 → exec (.rdctr p) s = .next (s.raise .invalidOperand))

/-- spec/45_ctr_streamer.md R207, R212, spec/20_memory.md R53: `INCCTR` adds 1 modulo 2¹²⁸ to the counter read as a
big-endian number, and changes nothing else. -/
def Obligations.IncctrAddsOneModulo2Pow128 : Prop :=
  ∀ s : State,
    encode (.incctr []) = [0x62, 0x00, 0x00, 0x00] ∧
    (∀ c : Block, s.ctr = some c → ∃ c' : Block,
      exec (.incctr []) s = .next ({ s with ctr := some c' }.respond []) ∧ c'.toNat = (c.toNat + 1) % 2 ^ 128) ∧
    (s.ctr = none → exec (.incctr []) s = .next (s.raise .noIV)) ∧
    (∀ p, p.length ≠ 0 → exec (.incctr p) s = .next (s.raise .invalidOperand))

/-- spec/45_ctr_streamer.md R207, R210: after n increments the counter is N(c) + n modulo 2¹²⁸, and two counters with
the same number are the same counter. -/
def Obligations.IncrementsCountModulo2Pow128 : Prop :=
  (∀ (n : Nat) (c : Block), (Nat.iterate incCounter n c).toNat = (c.toNat + n) % 2 ^ 128) ∧
  (∀ c d : Block, c.toNat = d.toNat → c = d)

/-- spec/45_ctr_streamer.md R208, R215: `PAD` appends n bytes of value n, n = 16 − (LEN mod 16) in 1..16, to a message of
at most 16 777 199 bytes, whatever the state; a longer one is `InvalidOperand`. -/
def Obligations.PadAppendsOneToSixteenBytes : Prop :=
  ∀ (s : State) (m : Bytes),
    encode (.pad m) = headerBytes 0x63 m.length ++ m ∧
    (m.length ≤ 16777199 → ∃ n : Nat, n = 16 - m.length % 16 ∧ 1 ≤ n ∧ n ≤ 16 ∧
      exec (.pad m) s = .next (s.respond (m ++ List.replicate n (BitVec.ofNat 8 n)))) ∧
    (16777199 < m.length → exec (.pad m) s = .next (s.raise .invalidOperand))

/-- spec/45_ctr_streamer.md R209, R216: `UNPAD` accepts exactly the strings that `pad` can produce and answers the message
without its pad; every other payload, the empty one included, is `InvalidPadding`. -/
def Obligations.UnpadAcceptsExactlyPaddedMessages : Prop :=
  ∀ (s : State),
    (∀ m : Bytes, exec (.unpad (pad m)) s = .next (s.respond m)) ∧
    (∀ p : Bytes, (∀ m, p ≠ pad m) → exec (.unpad p) s = .next (s.raise .invalidPadding))

/-- spec/45_ctr_streamer.md R210, R213: `ENCS` answers the padded message XORed byte by byte with the encryptions of the
successive counter values, the first block with the loaded counter itself; it consumes the counter and the State
Matrix. -/
def Obligations.EncsXorsTheKeystream : Prop :=
  ∀ (s : State) (t : Tables) (k : RoundKeys) (c : Block) (m : Bytes), s.tables = some t → s.rk = some k →
    s.ctr = some c → m.length ≤ 16777199 → ∃ out : Bytes,
      exec (.encs m) s = .next ({ s with ctr := none, matrix := none, rnd := 0, active := false }.respond out) ∧
      out.length = m.length + (16 - m.length % 16) ∧
      ∀ j, j < out.length → out.getD j 0 = (pad m).getD j 0
        ^^^ (encryptBlock t k (Nat.iterate incCounter (j / 16) c)).toBytes.getD (j % 16) 0

/-- spec/45_ctr_streamer.md R210, R214: `DECS` of whole blocks, none included, answers them XORed with the same keystream,
neither padding nor unpadding; it consumes the counter and the State Matrix. -/
def Obligations.DecsXorsTheSameKeystream : Prop :=
  ∀ (s : State) (t : Tables) (k : RoundKeys) (c : Block) (d : Bytes), s.tables = some t → s.rk = some k →
    s.ctr = some c → d.length % 16 = 0 → ∃ out : Bytes,
      exec (.decs d) s = .next ({ s with ctr := none, matrix := none, rnd := 0, active := false }.respond out) ∧
      out.length = d.length ∧
      ∀ j, j < out.length → out.getD j 0 = d.getD j 0
        ^^^ (encryptBlock t k (Nat.iterate incCounter (j / 16) c)).toBytes.getD (j % 16) 0

/-- spec/70_reset_and_hazards.md R280, spec/45_ctr_streamer.md R210: the counter values of one stream command never
repeat, and two stream commands under one key whose counter ranges do not overlap share no keystream block. -/
def Obligations.DisjointCounterRangesShareNoKeystream : Prop :=
  ∀ (k : RoundKeys) (c c' : Block) (n n' : Nat),
    (n ≤ 2 ^ 128 → (countersUsed c n).Nodup) ∧
    (countersDisjoint c n c' n' → ∀ i j, i < n → j < n' →
      encryptBlock buildTables k (Nat.iterate incCounter i c) ≠ encryptBlock buildTables k (Nat.iterate incCounter j c'))

/-- spec/45_ctr_streamer.md R217(a): the stream round trip: `ENCS` of a message, `DECS` of its answer from the same counter
under the same key, and `UNPAD` of that answer give the message back. -/
def Obligations.StreamRoundTripGivesTheMessageBack : Prop :=
  ∀ (s u w : State) (t : Tables) (k : RoundKeys) (c : Block) (m : Bytes), s.tables = some t → s.rk = some k →
    s.ctr = some c → u.tables = some t → u.rk = some k → u.ctr = some c → m.length ≤ 16777199 →
    ∃ x y : Bytes,
      exec (.encs m) s = .next ({ s with ctr := none, matrix := none, rnd := 0, active := false }.respond x) ∧
      exec (.decs x) u = .next ({ u with ctr := none, matrix := none, rnd := 0, active := false }.respond y) ∧
      exec (.unpad y) w = .next (w.respond m)

/-- spec/45_ctr_streamer.md R217(d): `ENCS` of a message does exactly what `DECS` of the padded message does, errors
included, in every state. -/
def Obligations.EncsIsDecsOfThePaddedMessage : Prop :=
  ∀ (s : State) (m : Bytes), m.length ≤ 16777199 → exec (.encs m) s = exec (.decs (pad m)) s

/-! ### Several engines -/

/-- spec/60_exceptions.md R262, spec/20_memory.md R65: a step of one engine is the single engine's step and leaves every
other engine as it is. That the engine to step is an argument is the model's choice (notes/assumptions/16.md). -/
def Obligations.EnginesDoNotTouchEachOther : Prop :=
  ∀ (k : Nat) (engines : List State),
    (∀ j, j ≠ k → (stepEngine k engines)[j]? = engines[j]?) ∧
    (∀ s t : State, engines[k]? = some s → step s = .next t → (stepEngine k engines)[k]? = some t)
end

