-- ==== Sys2Proof/Laws/Layout.lean ====
section
/-! SUPPORT. Byte order of blocks: bytes and blocks are two readings of the same thing. -/

namespace Sys2Proof

@[simp] theorem Column.length_toBytes (w : Column) : w.toBytes.length = 4 := rfl

@[simp] theorem Block.length_toBytes (b : Block) : b.toBytes.length = 16 := rfl

@[simp] theorem Block.ofBytes_toBytes (b : Block) : Block.ofBytes b.toBytes = some b := rfl

/-- Everything `Block.ofBytes` can answer: a block exactly on that block's own 16 bytes. -/
theorem Block.ofBytes_eq_some {p : Bytes} {b : Block} : Block.ofBytes p = some b ↔ p = b.toBytes := by
  constructor
  · intro h
    unfold Block.ofBytes at h
    split at h
    · cases h; rfl
    · cases h
  · rintro rfl; rfl

/-- A byte string of length 16 is the bytes of a block. -/
theorem Block.exists_toBytes {p : Bytes} (h : p.length = 16) : ∃ b : Block, p = b.toBytes := by
  match p, h with
  | [a0, a1, a2, a3, a4, a5, a6, a7, a8, a9, a10, a11, a12, a13, a14, a15], _ =>
    exact ⟨⟨⟨a0, a1, a2, a3⟩, ⟨a4, a5, a6, a7⟩, ⟨a8, a9, a10, a11⟩, ⟨a12, a13, a14, a15⟩⟩, rfl⟩

theorem Block.ofBytes_eq_none {p : Bytes} : Block.ofBytes p = none ↔ p.length ≠ 16 := by
  constructor
  · intro h hl
    obtain ⟨b, rfl⟩ := Block.exists_toBytes hl
    simp at h
  · intro h
    cases hb : Block.ofBytes p with
    | none => rfl
    | some b => rw [Block.ofBytes_eq_some.1 hb] at h; simp at h

@[simp] theorem Block.get_ofElements (f : Fin 4 → Fin 4 → Byte) (r c : Fin 4) : (Block.ofElements f).get r c = f r c := by
  fin_cases r <;> fin_cases c <;> rfl

/-- Two blocks with the same elements are the same block. -/
theorem Block.eq_of_get {a b : Block} (h : ∀ r c, a.get r c = b.get r c) : a = b := by
  obtain ⟨⟨_, _, _, _⟩, ⟨_, _, _, _⟩, ⟨_, _, _, _⟩, ⟨_, _, _, _⟩⟩ := a
  obtain ⟨⟨_, _, _, _⟩, ⟨_, _, _, _⟩, ⟨_, _, _, _⟩, ⟨_, _, _, _⟩⟩ := b
  simp only [Block.mk.injEq, Column.mk.injEq]
  exact ⟨⟨h 0 0, h 1 0, h 2 0, h 3 0⟩, ⟨h 0 1, h 1 1, h 2 1, h 3 1⟩, ⟨h 0 2, h 1 2, h 2 2, h 3 2⟩,
    ⟨h 0 3, h 1 3, h 2 3, h 3 3⟩⟩

@[simp] theorem Block.get_map (f : Byte → Byte) (b : Block) (r c : Fin 4) : (b.map f).get r c = f (b.get r c) := by
  fin_cases r <;> fin_cases c <;> rfl

@[simp] theorem Block.get_xor (a b : Block) (r c : Fin 4) : (a.xor b).get r c = a.get r c ^^^ b.get r c := by
  fin_cases r <;> fin_cases c <;> rfl

@[simp] theorem Block.column_mapColumns (f : Column → Column) (b : Block) (c : Fin 4) :
    (b.mapColumns f).column c = f (b.column c) := by
  fin_cases c <;> rfl

@[simp] theorem toBlocks_nil : toBlocks [] = [] := rfl

/-- The first block of a byte string is its first 16 bytes. -/
@[simp] theorem toBlocks_append (b : Block) (rest : Bytes) : toBlocks (b.toBytes ++ rest) = b :: toBlocks rest := rfl

@[simp] theorem fromBlocks_cons (b : Block) (bs : List Block) : fromBlocks (b :: bs) = b.toBytes ++ fromBlocks bs := rfl

@[simp] theorem toBlocks_fromBlocks (bs : List Block) : toBlocks (fromBlocks bs) = bs := by
  induction bs with
  | nil => rfl
  | cons b bs ih => rw [fromBlocks_cons, toBlocks_append, ih]

/-- A byte string whose length is a multiple of 16 is the bytes of its blocks. -/
theorem fromBlocks_toBlocks : ∀ {n : Nat} {d : Bytes}, d.length = 16 * n → fromBlocks (toBlocks d) = d
  | 0, d, h => by
    have : d = [] := List.eq_nil_of_length_eq_zero (by omega)
    subst this; rfl
  | n + 1, d, h => by
    obtain ⟨b, hb⟩ := Block.exists_toBytes (p := d.take 16) (by simp; omega)
    have hd : d = b.toBytes ++ d.drop 16 := by rw [← hb, List.take_append_drop]
    rw [hd, toBlocks_append, fromBlocks_cons, fromBlocks_toBlocks (n := n) (by simp; omega)]

@[simp] theorem length_fromBlocks (bs : List Block) : (fromBlocks bs).length = 16 * bs.length := by
  induction bs with
  | nil => rfl
  | cons b bs ih => simp [ih]; omega

end Sys2Proof
end

