-- ==== Sys2Proof/Laws/State.lean ====
section
/-! SUPPORT. One lemma per field and update of State: what each named write leaves in each field. -/

namespace Sys2Proof.Machine

variable (s : State)

@[simp] theorem State.setTables_tables (t : Guarded Tables) : (s.setTables t).tables = t := rfl
@[simp] theorem State.setTables_rk (t : Guarded Tables) : (s.setTables t).rk = s.rk := rfl
@[simp] theorem State.setTables_ctr (t : Guarded Tables) : (s.setTables t).ctr = s.ctr := rfl
@[simp] theorem State.setTables_matrix (t : Guarded Tables) : (s.setTables t).matrix = s.matrix := rfl
@[simp] theorem State.setTables_rnd (t : Guarded Tables) : (s.setTables t).rnd = s.rnd := rfl
@[simp] theorem State.setTables_active (t : Guarded Tables) : (s.setTables t).active = s.active := rfl
@[simp] theorem State.setTables_buffer (t : Guarded Tables) : (s.setTables t).buffer = s.buffer := rfl
@[simp] theorem State.setTables_cmd (t : Guarded Tables) : (s.setTables t).cmd = s.cmd := rfl
@[simp] theorem State.setTables_rsp (t : Guarded Tables) : (s.setTables t).rsp = s.rsp := rfl
@[simp] theorem State.setTables_rst (t : Guarded Tables) : (s.setTables t).rst = s.rst := rfl

@[simp] theorem State.setRk_tables (k : Guarded RoundKeys) : (s.setRk k).tables = s.tables := rfl
@[simp] theorem State.setRk_rk (k : Guarded RoundKeys) : (s.setRk k).rk = k := rfl
@[simp] theorem State.setRk_ctr (k : Guarded RoundKeys) : (s.setRk k).ctr = s.ctr := rfl
@[simp] theorem State.setRk_matrix (k : Guarded RoundKeys) : (s.setRk k).matrix = s.matrix := rfl
@[simp] theorem State.setRk_rnd (k : Guarded RoundKeys) : (s.setRk k).rnd = s.rnd := rfl
@[simp] theorem State.setRk_active (k : Guarded RoundKeys) : (s.setRk k).active = s.active := rfl
@[simp] theorem State.setRk_buffer (k : Guarded RoundKeys) : (s.setRk k).buffer = s.buffer := rfl
@[simp] theorem State.setRk_cmd (k : Guarded RoundKeys) : (s.setRk k).cmd = s.cmd := rfl
@[simp] theorem State.setRk_rsp (k : Guarded RoundKeys) : (s.setRk k).rsp = s.rsp := rfl
@[simp] theorem State.setRk_rst (k : Guarded RoundKeys) : (s.setRk k).rst = s.rst := rfl

@[simp] theorem State.setCtr_tables (c : Guarded Block) : (s.setCtr c).tables = s.tables := rfl
@[simp] theorem State.setCtr_rk (c : Guarded Block) : (s.setCtr c).rk = s.rk := rfl
@[simp] theorem State.setCtr_ctr (c : Guarded Block) : (s.setCtr c).ctr = c := rfl
@[simp] theorem State.setCtr_matrix (c : Guarded Block) : (s.setCtr c).matrix = s.matrix := rfl
@[simp] theorem State.setCtr_rnd (c : Guarded Block) : (s.setCtr c).rnd = s.rnd := rfl
@[simp] theorem State.setCtr_active (c : Guarded Block) : (s.setCtr c).active = s.active := rfl
@[simp] theorem State.setCtr_buffer (c : Guarded Block) : (s.setCtr c).buffer = s.buffer := rfl
@[simp] theorem State.setCtr_cmd (c : Guarded Block) : (s.setCtr c).cmd = s.cmd := rfl
@[simp] theorem State.setCtr_rsp (c : Guarded Block) : (s.setCtr c).rsp = s.rsp := rfl
@[simp] theorem State.setCtr_rst (c : Guarded Block) : (s.setCtr c).rst = s.rst := rfl

@[simp] theorem State.setMatrix_tables (m : Guarded Block) : (s.setMatrix m).tables = s.tables := rfl
@[simp] theorem State.setMatrix_rk (m : Guarded Block) : (s.setMatrix m).rk = s.rk := rfl
@[simp] theorem State.setMatrix_ctr (m : Guarded Block) : (s.setMatrix m).ctr = s.ctr := rfl
@[simp] theorem State.setMatrix_matrix (m : Guarded Block) : (s.setMatrix m).matrix = m := rfl
@[simp] theorem State.setMatrix_rnd (m : Guarded Block) : (s.setMatrix m).rnd = s.rnd := rfl
@[simp] theorem State.setMatrix_active (m : Guarded Block) : (s.setMatrix m).active = s.active := rfl
@[simp] theorem State.setMatrix_buffer (m : Guarded Block) : (s.setMatrix m).buffer = s.buffer := rfl
@[simp] theorem State.setMatrix_cmd (m : Guarded Block) : (s.setMatrix m).cmd = s.cmd := rfl
@[simp] theorem State.setMatrix_rsp (m : Guarded Block) : (s.setMatrix m).rsp = s.rsp := rfl
@[simp] theorem State.setMatrix_rst (m : Guarded Block) : (s.setMatrix m).rst = s.rst := rfl

@[simp] theorem State.endCipher_tables : (s.endCipher).tables = s.tables := rfl
@[simp] theorem State.endCipher_rk : (s.endCipher).rk = s.rk := rfl
@[simp] theorem State.endCipher_ctr : (s.endCipher).ctr = s.ctr := rfl
@[simp] theorem State.endCipher_matrix : (s.endCipher).matrix = none := rfl
@[simp] theorem State.endCipher_rnd : (s.endCipher).rnd = 0 := rfl
@[simp] theorem State.endCipher_active : (s.endCipher).active = false := rfl
@[simp] theorem State.endCipher_buffer : (s.endCipher).buffer = s.buffer := rfl
@[simp] theorem State.endCipher_cmd : (s.endCipher).cmd = s.cmd := rfl
@[simp] theorem State.endCipher_rsp : (s.endCipher).rsp = s.rsp := rfl
@[simp] theorem State.endCipher_rst : (s.endCipher).rst = s.rst := rfl

@[simp] theorem State.respond_tables (v : Bytes) : (s.respond v).tables = s.tables := rfl
@[simp] theorem State.respond_rk (v : Bytes) : (s.respond v).rk = s.rk := rfl
@[simp] theorem State.respond_ctr (v : Bytes) : (s.respond v).ctr = s.ctr := rfl
@[simp] theorem State.respond_matrix (v : Bytes) : (s.respond v).matrix = s.matrix := rfl
@[simp] theorem State.respond_rnd (v : Bytes) : (s.respond v).rnd = s.rnd := rfl
@[simp] theorem State.respond_active (v : Bytes) : (s.respond v).active = s.active := rfl
@[simp] theorem State.respond_buffer (v : Bytes) : (s.respond v).buffer = s.buffer := rfl
@[simp] theorem State.respond_cmd (v : Bytes) : (s.respond v).cmd = s.cmd := rfl
@[simp] theorem State.respond_rsp (v : Bytes) : (s.respond v).rsp = s.rsp ++ (headerBytes 0x00 v.length ++ v) := rfl
@[simp] theorem State.respond_rst (v : Bytes) : (s.respond v).rst = s.rst := rfl

@[simp] theorem State.raise_tables (e : ErrorKind) : (s.raise e).tables = s.tables := rfl
@[simp] theorem State.raise_rk (e : ErrorKind) : (s.raise e).rk = s.rk := rfl
@[simp] theorem State.raise_ctr (e : ErrorKind) : (s.raise e).ctr = s.ctr := rfl
@[simp] theorem State.raise_matrix (e : ErrorKind) : (s.raise e).matrix = s.matrix := rfl
@[simp] theorem State.raise_rnd (e : ErrorKind) : (s.raise e).rnd = s.rnd := rfl
@[simp] theorem State.raise_active (e : ErrorKind) : (s.raise e).active = s.active := rfl
@[simp] theorem State.raise_buffer (e : ErrorKind) : (s.raise e).buffer = s.buffer := rfl
@[simp] theorem State.raise_cmd (e : ErrorKind) : (s.raise e).cmd = s.cmd := rfl
@[simp] theorem State.raise_rsp (e : ErrorKind) : (s.raise e).rsp = s.rsp ++ (headerBytes e.code 0 ++ []) := rfl
@[simp] theorem State.raise_rst (e : ErrorKind) : (s.raise e).rst = s.rst := rfl

@[simp] theorem State.send_tables (b : Byte) (v : Bytes) : (s.send b v).tables = s.tables := rfl
@[simp] theorem State.send_rk (b : Byte) (v : Bytes) : (s.send b v).rk = s.rk := rfl
@[simp] theorem State.send_ctr (b : Byte) (v : Bytes) : (s.send b v).ctr = s.ctr := rfl
@[simp] theorem State.send_matrix (b : Byte) (v : Bytes) : (s.send b v).matrix = s.matrix := rfl
@[simp] theorem State.send_rnd (b : Byte) (v : Bytes) : (s.send b v).rnd = s.rnd := rfl
@[simp] theorem State.send_active (b : Byte) (v : Bytes) : (s.send b v).active = s.active := rfl
@[simp] theorem State.send_buffer (b : Byte) (v : Bytes) : (s.send b v).buffer = s.buffer := rfl
@[simp] theorem State.send_cmd (b : Byte) (v : Bytes) : (s.send b v).cmd = s.cmd := rfl
@[simp] theorem State.send_rsp (b : Byte) (v : Bytes) : (s.send b v).rsp = s.rsp ++ (headerBytes b v.length ++ v) := rfl
@[simp] theorem State.send_rst (b : Byte) (v : Bytes) : (s.send b v).rst = s.rst := rfl

@[simp] theorem State.consume_tables (r : Bytes) : (s.consume r).tables = s.tables := rfl
@[simp] theorem State.consume_rk (r : Bytes) : (s.consume r).rk = s.rk := rfl
@[simp] theorem State.consume_ctr (r : Bytes) : (s.consume r).ctr = s.ctr := rfl
@[simp] theorem State.consume_matrix (r : Bytes) : (s.consume r).matrix = s.matrix := rfl
@[simp] theorem State.consume_rnd (r : Bytes) : (s.consume r).rnd = s.rnd := rfl
@[simp] theorem State.consume_active (r : Bytes) : (s.consume r).active = s.active := rfl
@[simp] theorem State.consume_buffer (r : Bytes) : (s.consume r).buffer = [] := rfl
@[simp] theorem State.consume_cmd (r : Bytes) : (s.consume r).cmd = r := rfl
@[simp] theorem State.consume_rsp (r : Bytes) : (s.consume r).rsp = s.rsp := rfl
@[simp] theorem State.consume_rst (r : Bytes) : (s.consume r).rst = s.rst := rfl

@[simp] theorem State.hold_tables : (s.hold).tables = s.tables := rfl
@[simp] theorem State.hold_rk : (s.hold).rk = s.rk := rfl
@[simp] theorem State.hold_ctr : (s.hold).ctr = s.ctr := rfl
@[simp] theorem State.hold_matrix : (s.hold).matrix = s.matrix := rfl
@[simp] theorem State.hold_rnd : (s.hold).rnd = s.rnd := rfl
@[simp] theorem State.hold_active : (s.hold).active = s.active := rfl
@[simp] theorem State.hold_buffer : (s.hold).buffer = s.buffer ++ s.cmd := rfl
@[simp] theorem State.hold_cmd : (s.hold).cmd = [] := rfl
@[simp] theorem State.hold_rsp : (s.hold).rsp = s.rsp := rfl
@[simp] theorem State.hold_rst : (s.hold).rst = s.rst := rfl

@[simp] theorem State.hostSend_tables (v : Bytes) : (s.hostSend v).tables = s.tables := rfl
@[simp] theorem State.hostSend_rk (v : Bytes) : (s.hostSend v).rk = s.rk := rfl
@[simp] theorem State.hostSend_ctr (v : Bytes) : (s.hostSend v).ctr = s.ctr := rfl
@[simp] theorem State.hostSend_matrix (v : Bytes) : (s.hostSend v).matrix = s.matrix := rfl
@[simp] theorem State.hostSend_rnd (v : Bytes) : (s.hostSend v).rnd = s.rnd := rfl
@[simp] theorem State.hostSend_active (v : Bytes) : (s.hostSend v).active = s.active := rfl
@[simp] theorem State.hostSend_buffer (v : Bytes) : (s.hostSend v).buffer = s.buffer := rfl
@[simp] theorem State.hostSend_cmd (v : Bytes) : (s.hostSend v).cmd = s.cmd ++ v := rfl
@[simp] theorem State.hostSend_rsp (v : Bytes) : (s.hostSend v).rsp = s.rsp := rfl
@[simp] theorem State.hostSend_rst (v : Bytes) : (s.hostSend v).rst = s.rst := rfl

@[simp] theorem State.hostReset_tables : (s.hostReset).tables = s.tables := rfl
@[simp] theorem State.hostReset_rk : (s.hostReset).rk = s.rk := rfl
@[simp] theorem State.hostReset_ctr : (s.hostReset).ctr = s.ctr := rfl
@[simp] theorem State.hostReset_matrix : (s.hostReset).matrix = s.matrix := rfl
@[simp] theorem State.hostReset_rnd : (s.hostReset).rnd = s.rnd := rfl
@[simp] theorem State.hostReset_active : (s.hostReset).active = s.active := rfl
@[simp] theorem State.hostReset_buffer : (s.hostReset).buffer = s.buffer := rfl
@[simp] theorem State.hostReset_cmd : (s.hostReset).cmd = s.cmd := rfl
@[simp] theorem State.hostReset_rsp : (s.hostReset).rsp = s.rsp := rfl
@[simp] theorem State.hostReset_rst : (s.hostReset).rst = true := rfl

theorem State.tv_eq : s.tv = s.tables.isSome := rfl
theorem State.kv_eq : s.kv = s.rk.isSome := rfl
theorem State.cv_eq : s.cv = s.ctr.isSome := rfl
theorem State.sv_eq : s.sv = s.matrix.isSome := rfl

end Sys2Proof.Machine
end

