-- ==== Sys2Proof/Laws/Ops.lean ====
section
/-! SUPPORT. What each shared operation can do, said once: the end of a command, the operand forms, the `require`
checks, the packet header. -/

namespace Sys2Proof.Machine

@[simp] theorem finish_ok (s t : State) (v : Bytes) : finish s (.ok (t, v)) = .next (t.respond v) := rfl

@[simp] theorem finish_error (s : State) (e : ErrorKind) : finish s (.error e) = .next (s.raise e) := rfl

/-- A command always ends in a next state: with its writes and an `OK` response, or with an error response alone. -/
theorem finish_cases (s : State) (a : Answer) :
    (∃ t v, a = .ok (t, v) ∧ finish s a = .next (t.respond v)) ∨ (∃ e, a = .error e ∧ finish s a = .next (s.raise e)) := by
  cases a with
  | ok r => exact .inl ⟨r.1, r.2, rfl, rfl⟩
  | error e => exact .inr ⟨e, rfl, rfl⟩

@[simp] theorem answer_bind_ok {α : Type} (x : α) (f : α → Answer) : (Except.ok x >>= f) = f x := rfl

@[simp] theorem answer_bind_error {α : Type} (e : ErrorKind) (f : α → Answer) :
    ((Except.error e : Except ErrorKind α) >>= f) = .error e := rfl

/-- What holds of every error and of every body that runs after a check holds of the check followed by the body. -/
theorem answer_bind_elim {α : Type} {P : Answer → Prop} {c : Except ErrorKind α} {f : α → Answer}
    (he : ∀ e, P (.error e)) (h : ∀ x, c = .ok x → P (f x)) : P (c >>= f) := by
  cases c with
  | ok x => exact h x rfl
  | error e => exact he e

@[simp] theorem noOperand_nil : noOperand [] = .ok () := rfl

theorem noOperand_of_length {p : Bytes} (h : p.length ≠ 0) : noOperand p = .error .invalidOperand := by
  cases p with
  | nil => exact absurd rfl h
  | cons _ _ => rfl

@[simp] theorem oneByte_singleton (x : Byte) : oneByte [x] = .ok x := rfl

theorem oneByte_of_length {p : Bytes} (h : p.length ≠ 1) : oneByte p = .error .invalidOperand := by
  match p, h with
  | [], _ => rfl
  | [_], h => exact absurd rfl h
  | _ :: _ :: _, _ => rfl

/-- A round-key index from 0 to 10 is the operand. -/
theorem roundKeyIndex_of_lt {x : Byte} (h : x.toNat < 11) : roundKeyIndex [x] = .ok ⟨x.toNat, h⟩ := by
  show (if h : x.toNat < 11 then (Except.ok ⟨x.toNat, h⟩ : Except ErrorKind (Fin 11)) else .error .invalidOperand) = _
  rw [dif_pos h]

/-- A round-key index above 10 is an invalid operand. -/
theorem roundKeyIndex_of_ge {x : Byte} (h : 11 ≤ x.toNat) : roundKeyIndex [x] = .error .invalidOperand := by
  show (if h : x.toNat < 11 then (Except.ok ⟨x.toNat, h⟩ : Except ErrorKind (Fin 11)) else .error .invalidOperand) = _
  rw [dif_neg (by omega)]

theorem roundKeyIndex_of_length {p : Bytes} (h : p.length ≠ 1) : roundKeyIndex p = .error .invalidOperand := by
  unfold roundKeyIndex
  rw [oneByte_of_length h]
  rfl

@[simp] theorem blockOperand_toBytes (e : ErrorKind) (b : Block) : blockOperand e b.toBytes = .ok b := rfl

theorem blockOperand_of_length (e : ErrorKind) {p : Bytes} (h : p.length ≠ 16) : blockOperand e p = .error e := by
  unfold blockOperand
  rw [Block.ofBytes_eq_none.2 h]

theorem paddableMessage_of_le {p : Bytes} (h : p.length ≤ Config.maxPadIn) : paddableMessage p = .ok p := if_pos h

theorem paddableMessage_of_gt {p : Bytes} (h : Config.maxPadIn < p.length) :
    paddableMessage p = .error .invalidOperand := if_neg (by omega)

theorem wholeBlocks_of_dvd {p : Bytes} (h : p.length % 16 = 0) : wholeBlocks p = .ok p := if_pos h

theorem wholeBlocks_of_ragged {p : Bytes} (h : p.length % 16 ≠ 0) : wholeBlocks p = .error .invalidBlockSize := if_neg h

theorem requireT_some {s : State} {t : Tables} (h : s.tables = some t) : requireT s = .ok t := by
  unfold requireT; rw [h]

theorem requireT_none {s : State} (h : s.tables = none) : requireT s = .error .notInitialised := by
  unfold requireT; rw [h]

theorem requireK_some {s : State} {k : RoundKeys} (h : s.rk = some k) : requireK s = .ok k := by
  unfold requireK; rw [h]

theorem requireK_none {s : State} (h : s.rk = none) : requireK s = .error .noKey := by
  unfold requireK; rw [h]

theorem requireC_some {s : State} {c : Block} (h : s.ctr = some c) : requireC s = .ok c := by
  unfold requireC; rw [h]

theorem requireC_none {s : State} (h : s.ctr = none) : requireC s = .error .noIV := by
  unfold requireC; rw [h]

theorem requireS_some {s : State} {m : Block} (h : s.matrix = some m) : requireS s = .ok m := by
  unfold requireS; rw [h]

theorem requireS_none {s : State} (h : s.matrix = none) : requireS s = .error .noState := by
  unfold requireS; rw [h]

/-- R82: the three length bytes of a header give its length back, when it fits the 24-bit field. -/
theorem headerLen_headerBytes {n : Nat} (h : n ≤ Config.maxLen) :
    headerLen (BitVec.ofNat 8 (n / 65536)) (BitVec.ofNat 8 (n / 256)) (BitVec.ofNat 8 n) = n := by
  have : n ≤ 16777215 := h
  simp only [headerLen, BitVec.toNat_ofNat]
  omega

/-- R83: what the decoder reads from a header that announces `n` payload bytes and from the bytes after it. -/
def decodeTail (opc : Byte) (tail : Bytes) (n : Nat) : Decoded :=
  if n ≤ tail.length then
    match decodeOpcode opc (tail.take n) with
    | some i => .instr i (tail.drop n)
    | none => .illegalCommand opc (tail.take n) (tail.drop n)
  else .incomplete

/-- R83: the decoder on a header and what follows it. -/
theorem decode_headerBytes (opc : Byte) {n : Nat} (h : n ≤ Config.maxLen) (tail : Bytes) :
    decode (headerBytes opc n ++ tail) = decodeTail opc tail n :=
  congrArg (decodeTail opc tail) (headerLen_headerBytes h)

end Sys2Proof.Machine
end

