-- ==== Sys2Proof/Laws/Exec.lean ====
section
/-! SUPPORT. What executing any command can do, said once. -/

namespace Sys2Proof.Machine

/-- What no command's body writes: the ports and the message buffer. The response is sent by `finish` alone. -/
structure SamePorts (s t : State) : Prop where
  buffer : t.buffer = s.buffer
  cmd : t.cmd = s.cmd
  rsp : t.rsp = s.rsp
  rst : t.rst = s.rst

/-- The written state of an answer, where there is one, differs from `s` in registers only. -/
def KeepsPorts (s : State) (a : Answer) : Prop := ∀ t v, a = .ok (t, v) → SamePorts s t

theorem keepsPorts_error (s : State) (e : ErrorKind) : KeepsPorts s (.error e) := by
  intro t v h; cases h

theorem keepsPorts_ok {s t : State} (v : Bytes) (h : SamePorts s t) : KeepsPorts s (.ok (t, v)) := by
  intro t' v' e; cases e; exact h

theorem keepsPorts_bind {α : Type} {s : State} {c : Except ErrorKind α} {f : α → Answer}
    (h : ∀ x, KeepsPorts s (f x)) : KeepsPorts s (c >>= f) :=
  answer_bind_elim (keepsPorts_error s) fun x _ => h x

/-- Every command ends through `finish`, and its body leaves the ports and the message buffer alone. -/
theorem exec_eq_finish (i : Instr) (s : State) : ∃ a : Answer, exec i s = finish s a ∧ KeepsPorts s a := by
  cases i <;> refine ⟨_, rfl, ?_⟩
  case init p =>
    refine keepsPorts_bind fun _ => keepsPorts_ok _ ?_
    split <;> exact ⟨rfl, rfl, rfl, rfl⟩
  case unpad p =>
    split
    · exact keepsPorts_ok _ ⟨rfl, rfl, rfl, rfl⟩
    · exact keepsPorts_error _ _
  all_goals
    first
    | exact keepsPorts_bind fun _ => keepsPorts_ok _ ⟨rfl, rfl, rfl, rfl⟩
    | exact keepsPorts_bind fun _ => keepsPorts_bind fun _ => keepsPorts_ok _ ⟨rfl, rfl, rfl, rfl⟩
    | exact keepsPorts_bind fun _ => keepsPorts_bind fun _ => keepsPorts_bind fun _ =>
        keepsPorts_ok _ ⟨rfl, rfl, rfl, rfl⟩
    | exact keepsPorts_bind fun _ => keepsPorts_bind fun _ => keepsPorts_bind fun _ => keepsPorts_bind fun _ =>
        keepsPorts_ok _ ⟨rfl, rfl, rfl, rfl⟩

/-- Executing any command: it answers a next state, with the written registers and an `OK` response, or with an error
response and nothing else changed. -/
theorem exec_cases (i : Instr) (s : State) :
    (∃ t v, exec i s = .next (t.respond v) ∧ SamePorts s t) ∨ (∃ e, exec i s = .next (s.raise e)) := by
  obtain ⟨a, ha, hk⟩ := exec_eq_finish i s
  rw [ha]
  cases a with
  | ok r => exact .inl ⟨r.1, r.2, rfl, hk _ _ rfl⟩
  | error e => exact .inr ⟨e, rfl⟩

end Sys2Proof.Machine
end

