-- ==== Sys2Proof/Laws/PerInstr.lean ====
section
/-! SUPPORT. Facts about each instruction as syntax, one lemma per constructor. -/

namespace Sys2Proof.Laws

/-- R85: the opcode map reads a command's opcode back as that command. -/
def OpcodeRoundTrip.Statement (i : Instr) : Prop := decodeOpcode i.opcode i.payload = some i

theorem OpcodeRoundTrip.init (p : Bytes) : OpcodeRoundTrip.Statement (.init p) := rfl
theorem OpcodeRoundTrip.rdstat (p : Bytes) : OpcodeRoundTrip.Statement (.rdstat p) := rfl
theorem OpcodeRoundTrip.gfinv (p : Bytes) : OpcodeRoundTrip.Statement (.gfinv p) := rfl
theorem OpcodeRoundTrip.affine (p : Bytes) : OpcodeRoundTrip.Statement (.affine p) := rfl
theorem OpcodeRoundTrip.xtime (p : Bytes) : OpcodeRoundTrip.Statement (.xtime p) := rfl
theorem OpcodeRoundTrip.sbox (p : Bytes) : OpcodeRoundTrip.Statement (.sbox p) := rfl
theorem OpcodeRoundTrip.isbox (p : Bytes) : OpcodeRoundTrip.Statement (.isbox p) := rfl
theorem OpcodeRoundTrip.ldst (p : Bytes) : OpcodeRoundTrip.Statement (.ldst p) := rfl
theorem OpcodeRoundTrip.rdst (p : Bytes) : OpcodeRoundTrip.Statement (.rdst p) := rfl
theorem OpcodeRoundTrip.subb (p : Bytes) : OpcodeRoundTrip.Statement (.subb p) := rfl
theorem OpcodeRoundTrip.isubb (p : Bytes) : OpcodeRoundTrip.Statement (.isubb p) := rfl
theorem OpcodeRoundTrip.shrow (p : Bytes) : OpcodeRoundTrip.Statement (.shrow p) := rfl
theorem OpcodeRoundTrip.ishrow (p : Bytes) : OpcodeRoundTrip.Statement (.ishrow p) := rfl
theorem OpcodeRoundTrip.mixc (p : Bytes) : OpcodeRoundTrip.Statement (.mixc p) := rfl
theorem OpcodeRoundTrip.imixc (p : Bytes) : OpcodeRoundTrip.Statement (.imixc p) := rfl
theorem OpcodeRoundTrip.addrk (p : Bytes) : OpcodeRoundTrip.Statement (.addrk p) := rfl
theorem OpcodeRoundTrip.loadkey (p : Bytes) : OpcodeRoundTrip.Statement (.loadkey p) := rfl
theorem OpcodeRoundTrip.rdrk (p : Bytes) : OpcodeRoundTrip.Statement (.rdrk p) := rfl
theorem OpcodeRoundTrip.clrkey (p : Bytes) : OpcodeRoundTrip.Statement (.clrkey p) := rfl
theorem OpcodeRoundTrip.encb (p : Bytes) : OpcodeRoundTrip.Statement (.encb p) := rfl
theorem OpcodeRoundTrip.decb (p : Bytes) : OpcodeRoundTrip.Statement (.decb p) := rfl
theorem OpcodeRoundTrip.loadiv (p : Bytes) : OpcodeRoundTrip.Statement (.loadiv p) := rfl
theorem OpcodeRoundTrip.rdctr (p : Bytes) : OpcodeRoundTrip.Statement (.rdctr p) := rfl
theorem OpcodeRoundTrip.incctr (p : Bytes) : OpcodeRoundTrip.Statement (.incctr p) := rfl
theorem OpcodeRoundTrip.pad (p : Bytes) : OpcodeRoundTrip.Statement (.pad p) := rfl
theorem OpcodeRoundTrip.unpad (p : Bytes) : OpcodeRoundTrip.Statement (.unpad p) := rfl
theorem OpcodeRoundTrip.encs (p : Bytes) : OpcodeRoundTrip.Statement (.encs p) := rfl
theorem OpcodeRoundTrip.decs (p : Bytes) : OpcodeRoundTrip.Statement (.decs p) := rfl

/-- R85: the opcode map reads every command's opcode back as that command. -/
theorem decodeOpcode_opcode (i : Instr) : decodeOpcode i.opcode i.payload = some i := by cases i <;> rfl

end Sys2Proof.Laws
end

