-- ==== Sys2Proof/Laws/Tables.lean ====
section
/-! SUPPORT. The 256-entry arrays: what looking an entry up gives. -/

namespace Sys2Proof.Machine

theorem byteValues_getElem (i : Nat) (h : i < byteValues.length) : byteValues[i] = BitVec.ofNat 8 i := by
  simp [byteValues]

theorem lookup_eq_getElem (v : Vector Byte 256) (x : Byte) : lookup v x = v[x.toNat]'x.isLt := rfl

/-- R131: the entry of index `x` of a table filled by `f` is `f x`. -/
@[simp] theorem lookup_tabulate (f : Byte → Byte) (x : Byte) : lookup (tabulate f) x = f x := by
  rw [lookup_eq_getElem]
  simp [tabulate, byteValues]

/-- R131: the forward table's entries. -/
theorem buildTables_sub (x : Byte) : buildTables.sub x = affineTransform (inverse x) := by
  simp [buildTables, builtSbox, Tables.sub]

/-- A written entry reads as written. -/
theorem lookup_set_self (v : Vector Byte 256) (y x : Byte) : lookup (v.set y.toNat x y.isLt) y = x := by
  rw [lookup_eq_getElem]
  simp

/-- A write leaves every other entry alone. -/
theorem lookup_set_ne (v : Vector Byte 256) {y z : Byte} (x : Byte) (h : y ≠ z) :
    lookup (v.set y.toNat x y.isLt) z = lookup v z := by
  have : y.toNat ≠ z.toNat := fun e => h (BitVec.eq_of_toNat_eq e)
  rw [lookup_eq_getElem, lookup_eq_getElem]
  simp [this]

end Sys2Proof.Machine
end

