-- ==== Sys2Proof/Machine/Assembler.lean ====
section
/-! DEFINITION. The assembler syntax of the spec's examples (spec/30_encoding.md R89) and the pseudo-instructions (R90).
It is the host's notation, not part of the engine: a line of text becomes the bytes the host puts on the command port. -/

namespace Sys2Proof.Machine

/-- R85: the mnemonics, in upper case, with their opcodes. -/
def mnemonics : List (String × Byte) :=
  [("INIT", 0x01), ("RDSTAT", 0x02), ("GFINV", 0x10), ("AFFINE", 0x11), ("XTIME", 0x12), ("SBOX", 0x20),
   ("ISBOX", 0x21), ("LDST", 0x30), ("RDST", 0x31), ("SUBB", 0x32), ("ISUBB", 0x33), ("SHROW", 0x34), ("ISHROW",
   0x35), ("MIXC", 0x36), ("IMIXC", 0x37), ("ADDRK", 0x38), ("LOADKEY", 0x40), ("RDRK", 0x41), ("CLRKEY", 0x42),
   ("ENCB", 0x50), ("DECB", 0x51), ("LOADIV", 0x60), ("RDCTR", 0x61), ("INCCTR", 0x62), ("PAD", 0x63), ("UNPAD",
   0x64), ("ENCS", 0x65), ("DECS", 0x66)]

/-- The value of a hex digit, "upper or lower case". -/
def hexDigit (c : Char) : Option Nat :=
  if 48 ≤ c.toNat ∧ c.toNat ≤ 57 then some (c.toNat - 48)
  else if 65 ≤ c.toNat ∧ c.toNat ≤ 70 then some (c.toNat - 55)
  else if 97 ≤ c.toNat ∧ c.toNat ≤ 102 then some (c.toNat - 87)
  else none

/-- R89: a hex string, two digits per byte, byte 0 first, `_` and spaces allowed between bytes; `;` begins a comment. -/
def hexBytes : List Char → Option Bytes
  | [] => some []
  | [c] => if c = ' ' ∨ c = '_' ∨ c = ';' then some [] else none
  | c :: d :: cs =>
    if c = ';' then some []
    else if c = ' ' ∨ c = '_' then hexBytes (d :: cs)
    else
      match hexDigit c, hexDigit d with
      | some h, some l => (hexBytes cs).map (BitVec.ofNat 8 (16 * h + l) :: ·)
      | _, _ => none

/-- After the operand or the mnemonic only spaces and a comment may stand. -/
def onlyComment : List Char → Bool
  | [] => true
  | c :: cs => if c = ';' then true else decide (c = ' ') && onlyComment cs

/-- R89: the rest of an ASCII string after its opening quote: "one byte per character, no escapes". -/
def asciiBytes : List Char → Option Bytes
  | [] => none
  | c :: cs =>
    if c.toNat = 34 then (if onlyComment cs then some [] else none)
    else if c.toNat < 128 then (asciiBytes cs).map (BitVec.ofNat 8 c.toNat :: ·)
    else none

/-- R89: the operand in either spelling. -/
def operandBytes : List Char → Option Bytes
  | [] => some []
  | c :: cs => if c = ' ' then operandBytes cs else if c.toNat = 34 then asciiBytes cs else hexBytes (c :: cs)

/-- R90: a pseudo-instruction by its name and its operand (`rr` where it has one). -/
def pseudoOf (name : String) (operand : Bytes) : Option Pseudo :=
  match operand with
  | [rr] => if name = "ROUND" then some (.round rr) else if name = "IROUND" then some (.iround rr) else none
  | [] => if name = "FINAL" then some .final else if name = "IFINAL" then some .ifinal else none
  | _ => none

/-- R89: "The assembler emits the 4 header bytes of rule R82 and then the payload; it performs no checks". -/
def emit (opc : Byte) (payload : Bytes) : Bytes := headerBytes opc payload.length ++ payload

/-- R89, R90: the bytes of one line; `none` where the line is not in the syntax. -/
def assemble (line : List Char) : Option Bytes :=
  let name := String.ofList (line.takeWhile fun c => c != ' ' && c != ';')
  match operandBytes (line.dropWhile fun c => c != ' ' && c != ';') with
  | none => none
  | some operand =>
    match mnemonics.lookup name with
    | some opc => some (emit opc operand)
    | none => (pseudoOf name operand).map fun q => q.expand.flatMap encode

end Sys2Proof.Machine
end

