-- ==== Sys2Proof/Tests/Slice0.lean ====
section
/-! SUPPORT. Tests: the well-formedness smoke test, every command's packet decoded, one step per command against the
values spec/95_test_vectors.md gives, and for every statement with hypotheses a witness that meets them. -/

namespace Sys2Proof.Tests

open Sys2Proof Sys2Proof.Machine

/-! ### Helpers -/

/-- What the engine has sent when a step is over. -/
def sent : Host.Outcome State Fault Refusal → Bytes
  | .next t => t.rsp
  | .fault _ => []
  | .refused _ => []

/-- What the engine sends in one step when the host has put `packet` on its command port. -/
def answer (s : State) (packet : Bytes) : Bytes := sent (step (s.hostSend packet))

/-- The next state of an outcome, if it is one. -/
def toState : Host.Outcome State Fault Refusal → Option State
  | .next t => some t
  | .fault _ => none
  | .refused _ => none

/-- The state after that step. -/
def after (s : State) (packet : Bytes) : State := (toState (step (s.hostSend packet))).getD s

/-- An outcome is a next state where `toState` finds one. -/
theorem exists_next {o : Host.Outcome State Fault Refusal} (h : (toState o).isSome = true) : ∃ t, o = .next t := by
  cases o with
  | next s => exact ⟨s, rfl⟩
  | fault r => cases h
  | refused r => cases h

/-- After reset and `INIT`. -/
def built : State := { State.reset with tables := some buildTables }

/-- The key `2b7e151628aed2a6abf7158809cf4f3c` of T43.4. -/
def demoKey : Block := ⟨⟨0x2b, 0x7e, 0x15, 0x16⟩, ⟨0x28, 0xae, 0xd2, 0xa6⟩, ⟨0xab, 0xf7, 0x15, 0x88⟩,
  ⟨0x09, 0xcf, 0x4f, 0x3c⟩⟩

/-- The counter `f0f1f2f3f4f5f6f7f8f9fafbfcfdfeff` of T45.6. -/
def demoCounter : Block := ⟨⟨0xf0, 0xf1, 0xf2, 0xf3⟩, ⟨0xf4, 0xf5, 0xf6, 0xf7⟩, ⟨0xf8, 0xf9, 0xfa, 0xfb⟩,
  ⟨0xfc, 0xfd, 0xfe, 0xff⟩⟩

/-- The State Matrix `00112233445566778899aabbccddeeff` of section 2.4. -/
def demoMatrix : Block := ⟨⟨0x00, 0x11, 0x22, 0x33⟩, ⟨0x44, 0x55, 0x66, 0x77⟩, ⟨0x88, 0x99, 0xaa, 0xbb⟩,
  ⟨0xcc, 0xdd, 0xee, 0xff⟩⟩

/-- The round keys of that key. -/
def demoRoundKeys : RoundKeys := expandKey buildTables demoKey

/-- A state with everything loaded. -/
def keyed : State :=
  { built with rk := some demoRoundKeys, ctr := some demoCounter, matrix := some demoMatrix }

/-! ### Well-formed packets -/

/-- R82: a packet is well formed exactly when `LEN` can say how long its payload is. -/
theorem wellFormed_replicate (n : Nat) (b : Byte) :
    (Instr.pad (List.replicate n b)).wellFormed = decide (n ≤ 16777215) := by
  simp [Instr.wellFormed, Instr.len, Instr.payload, Config.maxLen]

/-- R82: a payload one byte longer than `LEN` can say is refused. -/
theorem test_wellFormed_refuses_long_payload : (Instr.pad (List.replicate 16777216 0x00)).wellFormed = false :=
  wellFormed_replicate 16777216 0x00

theorem test_wellFormed_longest_payload : (Instr.pad (List.replicate 16777215 0x00)).wellFormed = true :=
  wellFormed_replicate 16777215 0x00

/-! ### Decoding: each command's packet, written out from the encodings of spec/30_encoding.md R85 and of its rule -/

theorem test_decode_system :
    decode [0x01, 0, 0, 0] = .instr (.init []) [] ∧ decode [0x02, 0, 0, 0, 0x01] = .instr (.rdstat []) [0x01] := by
  decide

theorem test_decode_algebra :
    decode [0x10, 0, 0, 1, 0x53] = .instr (.gfinv [0x53]) [] ∧ decode [0x11, 0, 0, 1, 0xca] = .instr (.affine [0xca]) [] ∧
    decode [0x12, 0, 0, 2, 0x57, 0x80, 0x02] = .instr (.xtime [0x57, 0x80]) [0x02] := by decide

theorem test_decode_tables :
    decode [0x20, 0, 0, 1, 0x53] = .instr (.sbox [0x53]) [] ∧ decode [0x21, 0, 0, 1, 0xed] = .instr (.isbox [0xed]) [] := by
  decide

theorem test_decode_transform :
    decode [0x30, 0, 0, 3, 0x0a, 0x0b, 0x0c] = .instr (.ldst [0x0a, 0x0b, 0x0c]) [] ∧
    decode [0x31, 0, 0, 0] = .instr (.rdst []) [] ∧ decode [0x32, 0, 0, 0] = .instr (.subb []) [] ∧
    decode [0x33, 0, 0, 0] = .instr (.isubb []) [] ∧ decode [0x34, 0, 0, 0] = .instr (.shrow []) [] ∧
    decode [0x35, 0, 0, 0] = .instr (.ishrow []) [] ∧ decode [0x36, 0, 0, 0] = .instr (.mixc []) [] ∧
    decode [0x37, 0, 0, 0] = .instr (.imixc []) [] ∧ decode [0x38, 0, 0, 1, 0x0a] = .instr (.addrk [0x0a]) [] := by
  decide

theorem test_decode_schedule :
    decode [0x40, 0, 0, 2, 0x2b, 0x7e] = .instr (.loadkey [0x2b, 0x7e]) [] ∧
    decode [0x41, 0, 0, 1, 0x0a] = .instr (.rdrk [0x0a]) [] ∧ decode [0x42, 0, 0, 0] = .instr (.clrkey []) [] := by decide

theorem test_decode_cipher :
    decode [0x50, 0, 0, 2, 0x32, 0x43] = .instr (.encb [0x32, 0x43]) [] ∧
    decode [0x51, 0, 0, 2, 0x39, 0x25] = .instr (.decb [0x39, 0x25]) [] := by decide

theorem test_decode_stream :
    decode [0x60, 0, 0, 1, 0xf0] = .instr (.loadiv [0xf0]) [] ∧ decode [0x61, 0, 0, 0] = .instr (.rdctr []) [] ∧
    decode [0x62, 0, 0, 0] = .instr (.incctr []) [] ∧
    decode [0x63, 0, 0, 5, 0x68, 0x65, 0x6c, 0x6c, 0x6f] = .instr (.pad [0x68, 0x65, 0x6c, 0x6c, 0x6f]) [] ∧
    decode [0x64, 0, 0, 2, 0x02, 0x02] = .instr (.unpad [0x02, 0x02]) [] ∧
    decode [0x65, 0, 0, 1, 0xaa] = .instr (.encs [0xaa]) [] ∧ decode [0x66, 0, 0, 1, 0xbb] = .instr (.decs [0xbb]) [] := by
  decide

/-- Section 2.1: the payload of an illegal packet is consumed; a packet one byte short is not a packet yet. -/
theorem test_decode_illegal_and_incomplete :
    decode [0xff, 0, 0, 5, 1, 2, 3, 4, 5, 0x02] = .illegalCommand 0xff [1, 2, 3, 4, 5] [0x02] ∧
    decode [0x10, 0, 0, 1] = .incomplete ∧ decode [0x02, 0, 0] = .incomplete := by decide

/-- Section 2.1: `PAD` of 300 bytes has the header `63 00 01 2c`; its response header is `00 00 01 30`. -/
theorem test_header_bytes : headerBytes 0x63 300 = [0x63, 0x00, 0x01, 0x2c] ∧ headerBytes 0x00 304 = [0x00, 0x00, 0x01, 0x30]
    ∧ headerBytes 0x65 16777199 = [0x65, 0xff, 0xff, 0xef] := by decide

/-- The opcode table's numbering: the header is bits 31 to 0, `OPC` in bits 31 to 24. -/
theorem test_decodeTableWord : decodeTableWord 32 0x02000000 = some (.rdstat []) ∧
    decodeTableWord 40 0x5310000001 = some (.gfinv [0x53]) ∧ decodeTableWord 32 0x38000001 = some (.addrk [0x00]) ∧
    decodeTableWord 32 0x03000000 = none := by decide

theorem test_withFetchWord :
    (State.reset.withFetchWord 32 0x02000000).cmd = [0x02, 0x00, 0x00, 0x00] ∧
    (State.reset.withFetchWord 40 0x5310000001).cmd = [0x10, 0x00, 0x00, 0x01, 0x53] ∧
    sent (step (State.reset.withFetchWord 32 0x02000000)) = [0x00, 0x00, 0x00, 0x01, 0x00] := by decide

/-! ### One step per command, the values of spec/95_test_vectors.md -/

/-- Section 2.1, packet 1. -/
theorem test_rdstat_after_reset : answer State.reset [0x02, 0, 0, 0] = [0, 0, 0, 1, 0x00] := by decide

/-- Section 2.1, `STATUS` 0x0f with everything loaded. -/
theorem test_rdstat_keyed : answer keyed [0x02, 0, 0, 0] = [0, 0, 0, 1, 0x0f] := by decide +kernel

/-- T41.2: `STATUS` is 01 after `INIT`. -/
theorem test_init : (after State.reset [0x01, 0, 0, 0]).status = 0x01 ∧ answer State.reset [0x01, 0, 0, 0] = [0, 0, 0, 0] := by
  decide +kernel

/-- T40.18. -/
theorem test_gfinv : answer State.reset [0x10, 0, 0, 1, 0x53] = [0, 0, 0, 1, 0xca] := by decide +kernel

/-- T40.34. -/
theorem test_affine : answer State.reset [0x11, 0, 0, 1, 0xca] = [0, 0, 0, 1, 0xed] := by decide +kernel

/-- T40.7. -/
theorem test_xtime : answer State.reset [0x12, 0, 0, 1, 0x80] = [0, 0, 0, 1, 0x1b] := by decide +kernel

/-- Section 2.2: `57`·`83` = `c1`. -/
theorem test_gmul : gmul 0x57 0x83 = 0xc1 ∧ gmul 0x57 0x13 = 0xfe := by decide +kernel

/-- T41.6, T41.1. -/
theorem test_sbox : answer built [0x20, 0, 0, 1, 0x53] = [0, 0, 0, 1, 0xed] ∧
    answer State.reset [0x20, 0, 0, 1, 0x00] = [0x12, 0, 0, 0] := by decide +kernel

/-- T42.1, the column-major layout of R52: byte 1 is row 1 of column 0, byte 4 is row 0 of column 1. -/
theorem test_ldst : (after State.reset [0x30, 0, 0, 16, 0, 1, 2, 3, 4, 5, 6, 7, 8, 9, 10, 11, 12, 13, 14, 15]).matrix.map
    (fun m => [m.get 1 0, m.get 0 1, m.get 3 2]) = some [1, 4, 11] := by decide +kernel

/-- Section 2.4: the bytes come back in payload order. -/
theorem test_rdst : answer keyed [0x31, 0, 0, 0] = [0, 0, 0, 16, 0x00, 0x11, 0x22, 0x33, 0x44, 0x55, 0x66, 0x77, 0x88, 0x99,
    0xaa, 0xbb, 0xcc, 0xdd, 0xee, 0xff] := by decide +kernel

/-- Section 2.4, intermediate values: `SUBB`. -/
theorem test_subb : (after keyed [0x32, 0, 0, 0]).matrix = some ⟨⟨0x63, 0x82, 0x93, 0xc3⟩, ⟨0x1b, 0xfc, 0x33, 0xf5⟩,
    ⟨0xc4, 0xee, 0xac, 0xea⟩, ⟨0x4b, 0xc1, 0x28, 0x16⟩⟩ := by decide +kernel

/-- T41.13; section 2.4, intermediate values: `ISUBB`. -/
theorem test_isbox_and_isubb : answer built [0x21, 0, 0, 1, 0x52] = [0, 0, 0, 1, 0x48] ∧
    (after keyed [0x33, 0, 0, 0]).matrix = some ⟨⟨0x52, 0xe3, 0x94, 0x66⟩, ⟨0x86, 0xed, 0xd3, 0x02⟩, ⟨0x97, 0xf9, 0x62, 0xfe⟩,
    ⟨0x27, 0xc9, 0x99, 0x7d⟩⟩ := by decide +kernel

/-- Section 2.4, intermediate values: `SHROW`. -/
theorem test_shrow : (after keyed [0x34, 0, 0, 0]).matrix = some ⟨⟨0x00, 0x55, 0xaa, 0xff⟩, ⟨0x44, 0x99, 0xee, 0x33⟩,
    ⟨0x88, 0xdd, 0x22, 0x77⟩, ⟨0xcc, 0x11, 0x66, 0xbb⟩⟩ := by decide +kernel

/-- Section 2.4, intermediate values: `ISHROW`. -/
theorem test_ishrow : (after keyed [0x35, 0, 0, 0]).matrix = some ⟨⟨0x00, 0xdd, 0xaa, 0x77⟩, ⟨0x44, 0x11, 0xee, 0xbb⟩,
    ⟨0x88, 0x55, 0x22, 0xff⟩, ⟨0xcc, 0x99, 0x66, 0x33⟩⟩ := by decide +kernel

/-- Section 2.4, intermediate values: `MIXC`. -/
theorem test_mixc : (after keyed [0x36, 0, 0, 0]).matrix = some ⟨⟨0x22, 0x77, 0x00, 0x55⟩, ⟨0x66, 0x33, 0x44, 0x11⟩,
    ⟨0xaa, 0xff, 0x88, 0xdd⟩, ⟨0xee, 0xbb, 0xcc, 0x99⟩⟩ := by decide +kernel

/-- Section 2.4, single columns through `mixColumns`. -/
theorem test_mixColumn : mixColumn ⟨0xdb, 0x13, 0x53, 0x45⟩ = ⟨0x8e, 0x4d, 0xa1, 0xbc⟩ ∧
    mixColumn ⟨0x01, 0x00, 0x00, 0x00⟩ = ⟨0x02, 0x01, 0x01, 0x03⟩ := by decide +kernel

/-- Section 2.4, intermediate values: `IMIXC`. -/
theorem test_imixc : (after keyed [0x37, 0, 0, 0]).matrix = some ⟨⟨0xaa, 0xff, 0x88, 0xdd⟩, ⟨0xee, 0xbb, 0xcc, 0x99⟩,
    ⟨0x22, 0x77, 0x00, 0x55⟩, ⟨0x66, 0x33, 0x44, 0x11⟩⟩ := by decide +kernel

/-- T42.12. -/
theorem test_addrk : (after keyed [0x38, 0, 0, 1, 0x03]).matrix = some ⟨⟨0x3d, 0x91, 0x65, 0x4e⟩, ⟨0x03, 0x43, 0x98, 0x49⟩,
    ⟨0x96, 0xba, 0xd4, 0xff⟩, ⟨0xa1, 0xa7, 0x66, 0xc4⟩⟩ := by decide +kernel

/-- T42.15, T42.16, `NoKey` comes before `NoState`; section 2.1, an index of 0b is `InvalidOperand`. -/
theorem test_addrk_errors : answer built [0x38, 0, 0, 1, 0x00] = [0x13, 0, 0, 0] ∧
    answer built [0x38, 0, 0, 1, 0x0b] = [0x11, 0, 0, 0] := by decide +kernel

/-- T43.1: no tables. T43.2: the length is checked first. -/
theorem test_loadkey_errors :
    answer State.reset [0x40, 0, 0, 16, 0, 1, 2, 3, 4, 5, 6, 7, 8, 9, 10, 11, 12, 13, 14, 15] = [0x12, 0, 0, 0] ∧
    answer State.reset [0x40, 0, 0, 15, 0, 1, 2, 3, 4, 5, 6, 7, 8, 9, 10, 11, 12, 13, 14] = [0x01, 0, 0, 0] := by
  decide +kernel

/-- T43.8: the schedule of the zero key, round key 10. -/
theorem test_loadkey :
    ((after built [0x40, 0, 0, 16, 0, 0, 0, 0, 0, 0, 0, 0, 0, 0, 0, 0, 0, 0, 0, 0]).rk.map fun k => k.get 10) =
      some ⟨⟨0xb4, 0xef, 0x5b, 0xcb⟩, ⟨0x3e, 0x92, 0xe2, 0x11⟩, ⟨0x23, 0xe9, 0x51, 0xcf⟩, ⟨0x6f, 0x8f, 0x18, 0x8e⟩⟩ := by
  decide +kernel

/-- T43.6. -/
theorem test_rdrk : answer keyed [0x41, 0, 0, 1, 0x0a] = [0, 0, 0, 16, 0xd0, 0x14, 0xf9, 0xa8, 0xc9, 0xee, 0x25, 0x89, 0xe1,
    0x3f, 0x0c, 0xc8, 0xb6, 0x63, 0x0c, 0xa6] := by decide +kernel

/-- T43.11: `STATUS` is 01 after `CLRKEY`. -/
theorem test_clrkey : (after keyed [0x42, 0, 0, 0]).status = 0x01 := by decide +kernel

/-- T44.5. -/
theorem test_encb : answer keyed [0x50, 0, 0, 16, 0x32, 0x43, 0xf6, 0xa8, 0x88, 0x5a, 0x30, 0x8d, 0x31, 0x31, 0x98, 0xa2, 0xe0,
    0x37, 0x07, 0x34] = [0, 0, 0, 16, 0x39, 0x25, 0x84, 0x1d, 0x02, 0xdc, 0x09, 0xfb, 0xdc, 0x11, 0x85, 0x97, 0x19, 0x6a,
    0x0b, 0x32] := by decide +kernel

/-- T44.15: the State Matrix is gone; the other flags stay. -/
theorem test_encb_flags : (after keyed (encode (.encb demoMatrix.toBytes))).status = 0x07 := by decide +kernel

/-- T44.6. -/
theorem test_decb : answer keyed [0x51, 0, 0, 16, 0x39, 0x25, 0x84, 0x1d, 0x02, 0xdc, 0x09, 0xfb, 0xdc, 0x11, 0x85, 0x97, 0x19,
    0x6a, 0x0b, 0x32] = [0, 0, 0, 16, 0x32, 0x43, 0xf6, 0xa8, 0x88, 0x5a, 0x30, 0x8d, 0x31, 0x31, 0x98, 0xa2, 0xe0, 0x37,
    0x07, 0x34] := by decide +kernel

/-- Section 2.1: 12 bytes are `InvalidIVSize`. -/
theorem test_loadiv : answer keyed [0x60, 0, 0, 12, 0, 0, 0, 0, 0, 0, 0, 0, 0, 0, 0, 0] = [0x03, 0, 0, 0] ∧
    (after State.reset (encode (.loadiv demoCounter.toBytes))).status = 0x04 := by decide +kernel

/-- Section 2.7: after reset, `RDCTR` is `NoIV`. -/
theorem test_rdctr : answer State.reset [0x61, 0, 0, 0] = [0x14, 0, 0, 0] ∧
    answer keyed [0x61, 0, 0, 0] = [0, 0, 0, 16] ++ demoCounter.toBytes := by decide +kernel

/-- T45.6: the carry into byte 14. -/
theorem test_incctr : (after keyed [0x62, 0, 0, 0]).ctr = some ⟨⟨0xf0, 0xf1, 0xf2, 0xf3⟩, ⟨0xf4, 0xf5, 0xf6, 0xf7⟩,
    ⟨0xf8, 0xf9, 0xfa, 0xfb⟩, ⟨0xfc, 0xfd, 0xff, 0x00⟩⟩ := by decide +kernel

/-- V5a, T45.2: all ones wrap to zero. -/
theorem test_incCounter_wraps : incCounter ⟨⟨0xff, 0xff, 0xff, 0xff⟩, ⟨0xff, 0xff, 0xff, 0xff⟩, ⟨0xff, 0xff, 0xff, 0xff⟩,
    ⟨0xff, 0xff, 0xff, 0xff⟩⟩ = ⟨⟨0, 0, 0, 0⟩, ⟨0, 0, 0, 0⟩, ⟨0, 0, 0, 0⟩, ⟨0, 0, 0, 0⟩⟩ := by decide +kernel

/-- T45.12; T45.11: an empty message becomes 16 pad bytes. -/
theorem test_pad : answer State.reset [0x63, 0, 0, 5, 0x68, 0x65, 0x6c, 0x6c, 0x6f] =
      [0, 0, 0, 16, 0x68, 0x65, 0x6c, 0x6c, 0x6f, 11, 11, 11, 11, 11, 11, 11, 11, 11, 11, 11] ∧
    pad [] = List.replicate 16 0x10 := by decide +kernel

/-- T45.17, T45.31: a whole pad block is legal; one wrong byte under it is not. -/
theorem test_unpad : unpad (List.replicate 16 0x10) = some [] ∧
    unpad (List.replicate 16 0x00 ++ List.replicate 14 0x10 ++ [0x10, 0x0f]) = none := by decide +kernel

/-- T45.21, T45.22, T45.25: the empty payload, a ragged one, a count above 16. -/
theorem test_unpad_errors : answer State.reset [0x64, 0, 0, 0] = [0x04, 0, 0, 0] ∧
    answer State.reset [0x64, 0, 0, 1, 0x01] = [0x04, 0, 0, 0] ∧
    unpad [0, 1, 2, 3, 4, 5, 6, 7, 8, 9, 10, 11, 12, 13, 14, 0x11] = none := by decide +kernel

/-- T45.36; the counter and the State Matrix are consumed. -/
theorem test_encs : answer keyed [0x65, 0, 0, 5, 0x68, 0x65, 0x6c, 0x6c, 0x6f] = [0, 0, 0, 16, 0x84, 0xe9, 0xb3, 0x1f, 0xf7,
    0x6b, 0x77, 0xbb, 0xf9, 0xd9, 0x1d, 0x7e, 0xe1, 0x95, 0xaa, 0xef] := by decide +kernel

/-- T45.50: the first missing flag in the order K, C. -/
theorem test_encs_without_key : answer State.reset [0x65, 0, 0, 1, 0x78] = [0x13, 0, 0, 0] := by decide +kernel

/-- T45.40, its first block. -/
theorem test_decs : answer keyed [0x66, 0, 0, 16, 0x6b, 0xc1, 0xbe, 0xe2, 0x2e, 0x40, 0x9f, 0x96, 0xe9, 0x3d, 0x7e, 0x11, 0x73,
    0x93, 0x17, 0x2a] = [0, 0, 0, 16, 0x87, 0x4d, 0x61, 0x91, 0xb6, 0x20, 0xe3, 0x26, 0x1b, 0xef, 0x68, 0x64, 0x99, 0x0d,
    0xb6, 0xce] := by decide +kernel

/-- T45.45: no bytes, no answer bytes, and the counter is gone; section 2.8, `STATUS` 0x03 then. -/
theorem test_decs_empty : answer keyed [0x66, 0, 0, 0] = [0, 0, 0, 0] ∧ (after keyed [0x66, 0, 0, 0]).status = 0x03 := by
  decide +kernel

/-- Section 2.1: an illegal packet is answered `10 00 00 00` and the next packet starts after its payload. -/
theorem test_illegal_command : after State.reset [0xff, 0, 0, 5, 1, 2, 3, 4, 5, 0x02] =
    { State.reset with cmd := [0x02], rsp := [0x10, 0, 0, 0] } := by decide

/-- R274: the engine waits for the rest of a packet; R32: it is busy once it has the header. -/
theorem test_incomplete_packet : after State.reset [0x10, 0, 0, 1] = { State.reset with buffer := [0x10, 0, 0, 1] } ∧
    (after State.reset [0x10, 0, 0, 1]).busy = true ∧
    answer { State.reset with buffer := [0x10, 0, 0, 1] } [0x53] = [0, 0, 0, 1, 0xca] := by decide +kernel

/-- R271: reset wins over a packet in progress. -/
theorem test_reset : step ({ keyed with buffer := [0x10, 0, 0, 1] }.hostReset) = .next State.reset := rfl

/-- R89, R90: the assembler notation. -/
theorem test_assembler : assemble "GFINV 53".toList = some [0x10, 0, 0, 1, 0x53] ∧
    assemble "PAD \"hello\" ; pads".toList = some [0x63, 0, 0, 5, 0x68, 0x65, 0x6c, 0x6c, 0x6f] ∧
    assemble "FINAL".toList = some [0x32, 0, 0, 0, 0x34, 0, 0, 0, 0x38, 0, 0, 1, 0x0a] ∧
    assemble "NOP".toList = none := by decide +kernel

/-! ### Witnesses: concrete states and operands that meet the hypotheses of each statement, clause by clause -/

/-- The invariant holds with everything loaded, whatever the host has sent. -/
theorem keyed_meets_the_invariant (bytes : Bytes) : Inv (keyed.hostSend bytes) where
  keyed _ := rfl
  tablesBuilt _ h := (Option.some.inj h).symm
  schedule _ h := by
    rw [← Option.some.inj h]
    rfl
  idle := ⟨rfl, rfl⟩
  waiting := rfl
  responses := ⟨[], rfl, by simp⟩

/-- Also for `EveryCommandSendsExactlyOneResponse`: the longest payload, a block and none. -/
theorem witness_DecodeOfEncodeIsTheInstruction : (Instr.pad (List.replicate 16777215 0x00)).wellFormed = true ∧
    (Instr.encb demoMatrix.toBytes).wellFormed = true ∧ (Instr.init []).wellFormed = true :=
  ⟨wellFormed_replicate 16777215 0x00, rfl, rfl⟩

theorem witness_DecodedBytesAreTheInstructionsPacket : decode [0x41, 0, 0, 1, 0x0a, 0x02] = .instr (.rdrk [0x0a]) [0x02] := by
  decide

theorem witness_OpcodeMapSelectsTheListedCommands : ((0x66 : Byte), Instr.decs []) ∈ opcodeMap [] := by decide

theorem witness_StepRunsTheDecodedCommand :
    State.reset.rst = false ∧ decode ([0x38, 0x00] ++ [0x00, 0x01, 0x0a, 0x02]) = .instr (.addrk [0x0a]) [0x02] := by
  decide

theorem illegal_packet (n : Nat) (h : n ≤ 16777215) : (∀ p, decodeOpcode 0x00 p = none) ∧
    (List.replicate n (0x5a : Byte)).length ≤ 16777215 ∧
    ([] : Bytes) ++ (headerBytes 0x00 n ++ List.replicate n 0x5a ++ [0x02]) =
      headerBytes 0x00 (List.replicate n (0x5a : Byte)).length ++ List.replicate n 0x5a ++ [0x02] := by
  refine ⟨fun _ => rfl, by simpa using h, by simp⟩

theorem witness_StepAnswersIllegalCommand : (∀ p, decodeOpcode 0x00 p = none) ∧
    (List.replicate 16777215 (0x5a : Byte)).length ≤ 16777215 ∧
    ([] : Bytes) ++ (headerBytes 0x00 16777215 ++ List.replicate 16777215 0x5a ++ [0x02]) =
      headerBytes 0x00 (List.replicate 16777215 (0x5a : Byte)).length ++ List.replicate 16777215 0x5a ++ [0x02] :=
  illegal_packet 16777215 (Nat.le_refl _)

theorem witness_StepWaitsForTheRestOfAPacket :
    State.reset.rst = false ∧ decode ([0x10] ++ [0, 0, 1]) = .incomplete ∧ decode ([] ++ []) = .incomplete := by
  decide

theorem witness_ResetWinsOverEverything : keyed.hostReset.rst = true := rfl

theorem witness_PacketStreamRunsAsTheFoldOfItsCommands :
    keyed.rst = false ∧ keyed.buffer = [] ∧ keyed.cmd = [] ∧
    ∀ i ∈ [Instr.init [], .loadkey demoKey.toBytes, .encb demoMatrix.toBytes], i.wellFormed = true := by
  refine ⟨rfl, rfl, rfl, by decide⟩

/-- Payload lengths at the bounds of each check: 15, 16, 17 bytes; the round-key indices 10 and 11. -/
theorem witness_EveryCommandFollowsTheErrorMatrix :
    (keyed.kv = true → keyed.tv = true) ∧ (State.reset.kv = true → State.reset.tv = true) ∧
    errorOf (.encb demoMatrix.toBytes) keyed = none ∧ errorOf (.encb demoMatrix.toBytes) State.reset = some .noKey ∧
    errorOf (.ldst (List.replicate 15 0)) keyed = some .invalidBlockSize ∧
    errorOf (.loadiv (List.replicate 17 0)) keyed = some .invalidIVSize ∧
    errorOf (.addrk [0x0a]) keyed = none ∧ errorOf (.addrk [0x0b]) State.reset = some .invalidOperand ∧
    errorOf (.encs []) built = some .noKey ∧ errorOf (.decs (List.replicate 17 0)) State.reset = some .invalidBlockSize ∧
    errorOf (.unpad []) keyed = some .invalidPadding ∧ errorOf (.unpad (List.replicate 16 0x10)) State.reset = none ∧
    errorOf (.rdst []) State.reset = some .noState ∧ errorOf (.rdctr []) State.reset = some .noIV ∧
    errorOf (.sbox [0xff]) State.reset = some .notInitialised := by decide

theorem errorOf_pad (n : Nat) : errorOf (.pad (List.replicate n 0x00)) State.reset =
    if 16777199 < n then some .invalidOperand else none := by
  by_cases h : 16777199 < n <;> simp [errorOf, lengthError, operandError, stateError, contentError, requirements, h]

/-- The longest message and the first too long one. -/
theorem witness_longest_message : errorOf (.pad (List.replicate 16777199 0x00)) State.reset = none ∧
    errorOf (.pad (List.replicate 16777200 0x00)) State.reset = some .invalidOperand :=
  ⟨errorOf_pad 16777199, errorOf_pad 16777200⟩

theorem witness_FailedCommandChangesNothing : ∃ t : State, exec (.sbox [0x00]) State.reset = .next t ∧
    t.rsp = State.reset.rsp ++ 0x12 :: [0x00, 0x00, 0x00] ∧ (0x12 : Byte) ≠ 0x00 := ⟨_, rfl, rfl, by decide⟩

theorem witness_ErrorsDependOnPacketAndFlagsOnly : keyed.status = { keyed with ctr := some demoKey }.status ∧
    exec (.addrk [0x0b]) keyed = .next (keyed.raise .invalidOperand) := ⟨rfl, rfl⟩

theorem witness_FlagWritesFollowTheTable : (keyed.kv = true → keyed.tv = true) ∧
    exec (.encb demoMatrix.toBytes) keyed =
      .next (keyed.endCipher.respond (encryptBlock buildTables demoRoundKeys demoMatrix).toBytes) ∧
    errorOf (.encb demoMatrix.toBytes) keyed = none ∧
    exec (.clrkey [0x00]) keyed = .next (keyed.raise .invalidOperand) ∧ errorOf (.clrkey [0x00]) keyed ≠ none :=
  ⟨fun _ => rfl, rfl, rfl, rfl, by decide⟩

theorem witness_InvariantHoldsAfterEveryStep : Inv (keyed.hostSend [0x34, 0, 0, 0]) ∧
    ∃ t, step (keyed.hostSend [0x34, 0, 0, 0]) = .next t :=
  ⟨keyed_meets_the_invariant _, exists_next (by decide +kernel)⟩

theorem witness_TablesStayUntilReset : keyed.rst = false ∧ keyed.tables = some buildTables ∧
    ∃ t, step (keyed.hostSend [0x42, 0, 0, 0]) = .next t := ⟨rfl, rfl, exists_next (by decide +kernel)⟩

theorem witness_ReadsAndPureFunctionsChangeNothing :
    (∃ t, exec (.rdctr []) keyed = .next t) ∧ (∃ t, exec (.rdst [0x00]) keyed = .next t) := ⟨⟨_, rfl⟩, ⟨_, rfl⟩⟩

theorem witness_LoadsAndInitAreIdempotent : ∃ t u : State, exec (.clrkey []) keyed = .next t ∧ exec (.clrkey []) t = .next u :=
  ⟨_, _, rfl, rfl⟩

/-- Payloads of every wrong length next to the legal ones: 0 and 2 for one byte, 15 and 17 for a block. -/
theorem witness_wrong_lengths : ([0x00] : Bytes).length ≠ 0 ∧ ([] : Bytes).length ≠ 1 ∧ ([0x00, 0x00] : Bytes).length ≠ 1 ∧
    (List.replicate 15 (0 : Byte)).length ≠ 16 ∧ (List.replicate 17 (0 : Byte)).length ≠ 16 := by decide

theorem witness_RdstatAnswersTheFlags : ([0x00] : Bytes).length ≠ 0 ∧ (keyed.kv = true → keyed.tv = true) ∧ 4 ≤ 4 :=
  ⟨by decide, fun _ => rfl, Nat.le_refl _⟩

theorem witness_InverseIsTheFieldInverse : (0xff : Byte) ≠ 0x00 ∧ gmul 0xff 0x1c = 0x01 := by decide +kernel

theorem witness_AffineTransformBitByBit : 0 < 8 ∧ 7 < 8 := by decide

theorem witness_InitBuildsTheTablesOnce : State.reset.tables = none ∧ built.tables ≠ none ∧ ([0x00] : Bytes).length ≠ 0 :=
  ⟨rfl, Option.some_ne_none _, by decide⟩

theorem witness_LookupCommandsAnswerTheEntry : built.tables = some buildTables ∧ State.reset.tables = none := ⟨rfl, rfl⟩

theorem witness_LdstThenRdstKeepsTheBlock : demoMatrix.toBytes.length = 16 ∧ keyed.matrix = some demoMatrix ∧
    State.reset.matrix = none ∧ (List.replicate 15 (0 : Byte)).length ≠ 16 := ⟨rfl, rfl, rfl, by decide⟩

/-- Also for `ShrowAndIshrowRotateTheRows`, `MixcAndImixcMultiplyByTheMatrices`. -/
theorem witness_SubbAndIsubbReplaceEachElement : keyed.tables = some buildTables ∧ keyed.matrix = some demoMatrix := ⟨rfl, rfl⟩

/-- Also for `RdrkAnswersTheRoundKey`: the round-key indices 10 and 11, with and without a key. -/
theorem witness_AddrkXorsTheRoundKey : keyed.rk = some demoRoundKeys ∧ keyed.matrix = some demoMatrix ∧
    (0x0a : Byte).toNat < 11 ∧ 10 < (0x0b : Byte).toNat ∧ State.reset.rk = none :=
  ⟨rfl, rfl, by decide, by decide, rfl⟩

theorem witness_InverseCommandPairsRestoreTheMatrix : Inv (keyed.hostSend []) ∧ (keyed.hostSend []).matrix = some demoMatrix ∧
    (keyed.hostSend []).tv = true := ⟨keyed_meets_the_invariant [], rfl, rfl⟩

theorem witness_RoundConstantsDouble : (1 ≤ 1 ∧ 1 < 10) ∧ 1 ≤ 9 ∧ 9 < 10 := by decide

theorem witness_LoadkeyBuildsTheSchedule : demoKey.toBytes.length = 16 ∧ built.tables = some buildTables ∧
    State.reset.tables = none ∧ (List.replicate 17 (0 : Byte)).length ≠ 16 := ⟨rfl, rfl, rfl, by decide⟩

theorem witness_ClrkeyDisposesOfKeyCounterAndMatrix : ([0x00] : Bytes).length ≠ 0 ∧ ∃ t, exec (.clrkey []) keyed = .next t :=
  ⟨by decide, _, rfl⟩

/-- Also for `DecbRunsTheMirror`. -/
theorem witness_EncbRunsTheTenRounds : keyed.tables = some buildTables ∧ keyed.rk = some demoRoundKeys ∧ built.rk = none ∧
    (List.replicate 17 (0 : Byte)).length ≠ 16 := ⟨rfl, rfl, rfl, by decide⟩

theorem witness_DecbAndEncbUndoEachOther : keyed.tables = some buildTables ∧ keyed.endCipher.tables = some buildTables ∧
    keyed.rk = some demoRoundKeys ∧ keyed.endCipher.rk = some demoRoundKeys := ⟨rfl, rfl, rfl, rfl⟩

theorem witness_PrimitiveCommandsComputeTheBlockCipher : keyed.tables = some buildTables ∧ keyed.rk = some demoRoundKeys ∧
    keyed.matrix = some demoMatrix := ⟨rfl, rfl, rfl⟩

/-- Also for `IncctrAddsOneModulo2Pow128`. -/
theorem witness_LoadivThenRdctrKeepsTheCounter : demoCounter.toBytes.length = 16 ∧ keyed.ctr = some demoCounter ∧
    State.reset.ctr = none ∧ (List.replicate 12 (0 : Byte)).length ≠ 16 ∧ ([0x00] : Bytes).length ≠ 0 :=
  ⟨rfl, rfl, rfl, by decide, by decide⟩

theorem witness_IncrementsCountModulo2Pow128 : demoCounter.toNat = demoCounter.toNat := rfl

theorem message_lengths (m n : Nat) (hm : m ≤ 16777199) (hn : 16777199 < n) :
    (List.replicate m (0x00 : Byte)).length ≤ 16777199 ∧ 16777199 < (List.replicate n (0x00 : Byte)).length := by
  simpa using ⟨hm, hn⟩

theorem witness_PadAppendsOneToSixteenBytes : (List.replicate 16777199 (0x00 : Byte)).length ≤ 16777199 ∧
    16777199 < (List.replicate 16777200 (0x00 : Byte)).length :=
  message_lengths 16777199 16777200 (Nat.le_refl _) (by decide)

/-- The empty payload and a payload of one byte are the padding of no message. -/
theorem witness_UnpadAcceptsExactlyPaddedMessages : (∀ m, ([] : Bytes) ≠ pad m) ∧ (∀ m, ([0x01] : Bytes) ≠ pad m) := by
  constructor <;> intro m h <;>
    (have := congrArg List.length h
     simp only [pad, padCount, Config.padMax, Config.blockBytes, List.length_nil, List.length_cons, List.length_append,
       List.length_replicate] at this
     omega)

/-- Also for `DecsXorsTheSameKeystream`: no block and one block. -/
theorem witness_EncsXorsTheKeystream : keyed.tables = some buildTables ∧ keyed.rk = some demoRoundKeys ∧
    keyed.ctr = some demoCounter ∧ (List.replicate 16777199 (0x00 : Byte)).length ≤ 16777199 ∧
    ([] : Bytes).length % 16 = 0 ∧ demoMatrix.toBytes.length % 16 = 0 :=
  ⟨rfl, rfl, rfl, (message_lengths 16777199 16777200 (Nat.le_refl _) (by decide)).1, rfl, rfl⟩

/-- Also for `EncsIsDecsOfThePaddedMessage`. -/
theorem witness_StreamRoundTripGivesTheMessageBack : keyed.tables = some buildTables ∧ keyed.rk = some demoRoundKeys ∧
    keyed.ctr = some demoCounter ∧ { keyed with matrix := none }.ctr = some demoCounter ∧
    ([] : Bytes).length ≤ 16777199 := ⟨rfl, rfl, rfl, rfl, by decide⟩

theorem witness_DisjointCounterRangesShareNoKeystream : 2 ^ 128 ≤ 2 ^ 128 ∧ countersDisjoint demoCounter 2 demoKey 2 ∧
    1 < 2 := by
  refine ⟨Nat.le_refl _, ?_, by decide⟩
  unfold countersDisjoint
  decide

theorem witness_EnginesDoNotTouchEachOther : 0 ≠ 1 ∧ [State.reset, keyed][1]? = some keyed ∧ step keyed = .next keyed.hold :=
  ⟨by decide, rfl, rfl⟩

end Sys2Proof.Tests
end

section
/-! The statements of spec/10_state.md: what each command checks and writes, said once for all 28 commands
(spec/60_exceptions.md R242, R244; spec/10_state.md R27), and from that the invariant of the reachable states. -/

namespace Sys2Proof.Machine

/-! ### Checks: a computation together with the error it ends with -/

/-- `c` ends with the error `err` names; where `err` is none it has a value, and that value meets `P`. -/
def Checks {α : Type} (err : Option ErrorKind) (P : α → Prop) (c : Except ErrorKind α) : Prop :=
  match err with
  | some e => c = .error e
  | none => ∃ x, c = .ok x ∧ P x

theorem checks_ok {α : Type} {P : α → Prop} {x : α} (h : P x) : Checks none P (.ok x) := ⟨x, rfl, h⟩

/-- R244: checks come in order: the error of a sequence is the first error found. -/
theorem Checks.bind {α β : Type} {e₁ e₂ : Option ErrorKind} {P : α → Prop} {Q : β → Prop} {c : Except ErrorKind α}
    {f : α → Except ErrorKind β} (hc : Checks e₁ P c) (hf : ∀ x, P x → Checks e₂ Q (f x)) :
    Checks (e₁.or e₂) Q (c >>= f) := by
  cases e₁ with
  | some e => cases hc; rfl
  | none =>
    obtain ⟨x, rfl, hx⟩ := hc
    exact hf x hx

theorem Checks.of_eq {α : Type} {e₁ e₂ : Option ErrorKind} {P : α → Prop} {c : Except ErrorKind α}
    (hc : Checks e₁ P c) (he : e₂ = e₁) : Checks e₂ P c := he ▸ hc

/-! ### The operand forms of R86 and the `require` checks of R10, each with its error -/

theorem noOperand_checks (p : Bytes) :
    Checks (if p.length ≠ 0 then some .invalidOperand else none) (fun _ => True) (noOperand p) := by
  split
  next h => exact noOperand_of_length h
  next h => cases List.eq_nil_of_length_eq_zero (not_not.1 h); exact checks_ok trivial

theorem oneByte_checks (p : Bytes) :
    Checks (if p.length ≠ 1 then some .invalidOperand else none) (fun x => p = [x]) (oneByte p) := by
  split
  next h => exact oneByte_of_length h
  next h =>
    obtain ⟨x, rfl⟩ := List.length_eq_one_iff.1 (not_not.1 h)
    exact checks_ok rfl

/-- R244: the index check is two checks, the length and then the value. -/
theorem roundKeyIndex_checks (p : Bytes) :
    Checks ((if p.length ≠ 1 then some .invalidOperand else none).or
      (if p.any (fun r => decide (10 < r.toNat)) then some .invalidOperand else none))
      (fun _ => True) (roundKeyIndex p) := by
  refine (oneByte_checks p).bind fun x hx => ?_
  subst hx
  by_cases h : x.toNat < 11
  · rw [if_neg (by simp; omega), dif_pos h]; exact checks_ok trivial
  · rw [if_pos (by simp; omega), dif_neg h]; rfl

theorem blockOperand_checks (e : ErrorKind) (p : Bytes) :
    Checks (if p.length ≠ 16 then some e else none) (fun _ => True) (blockOperand e p) := by
  split
  next h => exact blockOperand_of_length e h
  next h =>
    obtain ⟨b, rfl⟩ := Block.exists_toBytes (not_not.1 h)
    exact checks_ok trivial

theorem paddableMessage_checks (p : Bytes) :
    Checks (if 16777199 < p.length then some .invalidOperand else none)
      (fun m => m.length ≤ Config.maxPadIn) (paddableMessage p) := by
  split
  next h => exact paddableMessage_of_gt h
  next h =>
    have hle : p.length ≤ Config.maxPadIn := not_lt.1 h
    rw [paddableMessage_of_le hle]
    exact checks_ok hle

theorem wholeBlocks_checks (p : Bytes) :
    Checks (if p.length % 16 ≠ 0 then some .invalidBlockSize else none) (fun d => d = p) (wholeBlocks p) := by
  split
  next h => exact wholeBlocks_of_ragged h
  next h => rw [wholeBlocks_of_dvd (not_not.1 h)]; exact checks_ok rfl

/-- R10: a `require` check gives the value of the register its flag guards, or its error. -/
theorem require_checks {α : Type} {r : Guarded α} {e : ErrorKind} {c : Except ErrorKind α}
    (hsome : ∀ {x}, r = some x → c = .ok x) (hnone : r = none → c = .error e) :
    Checks (if !r.isSome then some e else none) (fun x => r = some x) c := by
  cases r with
  | none => exact hnone rfl
  | some x => exact ⟨x, hsome rfl, rfl⟩

theorem requireT_checks (s : State) :
    Checks (if !s.tv then some .notInitialised else none) (fun t => s.tables = some t) (requireT s) :=
  require_checks requireT_some requireT_none

theorem requireK_checks (s : State) :
    Checks (if !s.kv then some .noKey else none) (fun k => s.rk = some k) (requireK s) :=
  require_checks requireK_some requireK_none

theorem requireC_checks (s : State) :
    Checks (if !s.cv then some .noIV else none) (fun c => s.ctr = some c) (requireC s) :=
  require_checks requireC_some requireC_none

theorem requireS_checks (s : State) :
    Checks (if !s.sv then some .noState else none) (fun m => s.matrix = some m) (requireS s) :=
  require_checks requireS_some requireS_none

/-- R28: with a key loaded the tables are there, so the cipher commands' read of them cannot fail. -/
theorem requireT_checks_of_keyed {s : State} {k : RoundKeys} (hkt : s.kv = true → s.tv = true) (hk : s.rk = some k) :
    Checks none (fun t => s.tables = some t) (requireT s) := by
  have htv : s.tv = true := hkt (by simp [State.kv_eq, hk])
  simpa [htv] using requireT_checks s

/-! ### The padding and the lengths of responses -/

/-- R209: `isPadded` reads the message from its end backward, `unpad` from its front: the same test. -/
theorem unpad_eq (m : Bytes) :
    unpad m = if isPadded m then m.getLast?.map fun n => m.take (m.length - n.toNat) else none := by
  unfold unpad isPadded
  rw [List.getLast?_eq_head?_reverse]
  cases hr : m.reverse with
  | nil => rfl
  | cons n rest =>
    have htail : (n :: rest).take n.toNat = (m.drop (m.length - n.toNat)).reverse := by rw [← hr, List.take_reverse]
    simp only [htail, List.all_reverse, List.head?_cons, Option.map_some, Config.blockBytes, Config.padMax]
    generalize (m.drop (m.length - n.toNat)).all (· == n) = equalTail
    grind

/-- R216: a padded message has a last byte, so `unpad` answers, and it answers a beginning of the message. -/
theorem unpad_of_padded {m : Bytes} (h : isPadded m = true) : ∃ v, unpad m = some v ∧ v.length ≤ m.length := by
  rw [unpad_eq, if_pos h]
  cases hl : m.getLast? with
  | none => rw [List.getLast?_eq_none_iff.1 hl] at h; cases h
  | some n => exact ⟨_, rfl, List.length_take_le' _ _⟩

theorem unpad_of_not_padded {m : Bytes} (h : isPadded m = false) : unpad m = none := by
  rw [unpad_eq, h]; rfl

/-- R88: a block fits a response. -/
theorem block_fits (b : Block) : b.toBytes.length ≤ Config.maxLen := by simp [Config.maxLen]

/-- R88: a padded message of the largest size still fits a response. -/
theorem pad_fits {m : Bytes} (h : m.length ≤ Config.maxPadIn) : (pad m).length ≤ Config.maxLen := by
  simp only [Config.maxPadIn] at h
  simp only [pad, padCount, Config.padMax, Config.maxLen, List.length_append, List.length_replicate]
  omega

theorem length_ctrXor (t : Tables) (k : RoundKeys) (c : Block) (ds : List Block) :
    (ctrXor t k c ds).length = ds.length := by
  induction ds generalizing c with
  | nil => rfl
  | cons d ds ih => simp [ctrXor, ih]

theorem length_toBlocks_le (d : Bytes) : 16 * (toBlocks d).length ≤ d.length := by
  induction d using toBlocks.induct with
  | case1 a0 a1 a2 a3 a4 a5 a6 a7 a8 a9 a10 a11 a12 a13 a14 a15 rest ih => simp [toBlocks]; omega
  | case2 d hshort => simp [toBlocks.eq_2 d hshort]

/-- R88: the streamer never answers more bytes than it takes. -/
theorem length_stream_le (t : Tables) (k : RoundKeys) (c : Block) (d : Bytes) :
    (fromBlocks (ctrXor t k c (toBlocks d))).length ≤ d.length := by
  simpa [length_ctrXor] using length_toBlocks_le d

/-! ### What a command that completes writes -/

/-- Everything the body of a completing command can do to the registers, whichever command it is. -/
inductive Written (s : State) : State → Prop where
  | nothing : Written s s
  | tables : s.tables = none → Written s (s.setTables (some buildTables))
  | key {t : Tables} (key : Block) : s.tables = some t → Written s (s.setRk (some (expandKey t key)))
  | clear : Written s (((s.setRk none).setCtr none).setMatrix none)
  | ctr (c : Block) : Written s (s.setCtr (some c))
  | matrix (m : Block) : Written s (s.setMatrix (some m))
  | cipher : Written s s.endCipher
  | stream : Written s (s.setCtr none).endCipher

/-- What a completing command `i` leaves in the registers (`r.1`) and answers (`r.2`), from the state `s`. -/
structure Completes (i : Instr) (s : State) (r : State × Bytes) : Prop where
  written : Written s r.1
  /-- R27: the command's row of the flag table. -/
  flags : (r.1.tv, r.1.kv, r.1.cv, r.1.sv) = flagsAfter i s.tv s.kv s.cv s.sv
  /-- R88: the answer's length fits `RLEN`. -/
  fits : i.wellFormed = true → r.2.length ≤ Config.maxLen

/-- A command whose row writes no flag and whose body writes nothing, with its answer. -/
theorem completes_read {i : Instr} {s : State} {v : Bytes}
    (hrow : flagsAfter i s.tv s.kv s.cv s.sv = (s.tv, s.kv, s.cv, s.sv))
    (hfits : i.wellFormed = true → v.length ≤ Config.maxLen) : Completes i s (s, v) :=
  ⟨.nothing, hrow.symm, hfits⟩

/-- A command that answers one byte. -/
theorem completes_read_byte {i : Instr} {s : State} (x : Byte)
    (hrow : flagsAfter i s.tv s.kv s.cv s.sv = (s.tv, s.kv, s.cv, s.sv)) : Completes i s (s, [x]) :=
  completes_read hrow fun _ => by simp [Config.maxLen]

/-- A command that answers a block. -/
theorem completes_read_block {i : Instr} {s : State} (b : Block)
    (hrow : flagsAfter i s.tv s.kv s.cv s.sv = (s.tv, s.kv, s.cv, s.sv)) : Completes i s (s, b.toBytes) :=
  completes_read hrow fun _ => block_fits b

/-- A command that writes and answers nothing. -/
theorem completes_write {i : Instr} {s t : State} (hw : Written s t)
    (hrow : (t.tv, t.kv, t.cv, t.sv) = flagsAfter i s.tv s.kv s.cv s.sv) : Completes i s (t, []) :=
  ⟨hw, hrow, fun _ => Nat.zero_le _⟩

/-- A command that transforms the State Matrix it finds; `SV` stays 1. -/
theorem completes_transform {i : Instr} {s : State} {m : Block} (m' : Block) (hm : s.matrix = some m)
    (hrow : flagsAfter i s.tv s.kv s.cv s.sv = (s.tv, s.kv, s.cv, s.sv)) :
    Completes i s (s.setMatrix (some m'), []) :=
  completes_write (.matrix m') (by rw [hrow]; simp [State.tv_eq, State.kv_eq, State.cv_eq, State.sv_eq, hm])

/-- R212: `INCCTR` writes the counter it finds; `CV` stays 1. -/
theorem completes_incctr {p : Bytes} {s : State} {c : Block} (c' : Block) (hc : s.ctr = some c) :
    Completes (.incctr p) s (s.setCtr (some c'), []) :=
  completes_write (.ctr c') (by simp [flagsAfter, State.tv_eq, State.kv_eq, State.cv_eq, State.sv_eq, hc])

/-- R132: `INIT` builds the tables or finds them built; `TV` is 1 afterwards. -/
theorem completes_init (p : Bytes) (s : State) :
    Completes (.init p) s (if s.tv then s else s.setTables (some buildTables), []) := by
  cases htv : s.tv with
  | true => exact completes_write .nothing (by simp [flagsAfter, htv])
  | false =>
    exact completes_write (.tables (by simpa [State.tv_eq] using htv))
      (by simp [flagsAfter, State.tv_eq, State.kv_eq, State.cv_eq, State.sv_eq])

/-- R244 (4): the state checks in order, each with its own flag. -/
theorem stateError_eq (i : Instr) (s : State) : stateError i s =
    (if (requirements i).1 && !s.tv then some .notInitialised else none).or
    ((if (requirements i).2.1 && !s.kv then some .noKey else none).or
    ((if (requirements i).2.2.1 && !s.cv then some .noIV else none).or
    (if (requirements i).2.2.2 && !s.sv then some .noState else none))) := by
  unfold stateError
  split_ifs <;> rfl

/-- `i` ends through `finish`, with the error the error matrix names, or completed. -/
def FollowsMatrix (i : Instr) (s : State) : Prop :=
  ∃ a : Answer, exec i s = finish s a ∧ Checks (errorOf i s) (Completes i s) a

/-- R216: `UNPAD` has no check but that of its content. -/
theorem unpad_followsMatrix (p : Bytes) (s : State) : FollowsMatrix (.unpad p) s := by
  have herr : errorOf (.unpad p) s = if isPadded p then none else some .invalidPadding := by
    simp [errorOf, lengthError, operandError, stateError, requirements, contentError]
  cases hp : isPadded p with
  | true =>
    obtain ⟨v, hv, hlen⟩ := unpad_of_padded hp
    refine ⟨.ok (s, v), ?_, checks_ok (completes_read rfl ?_) |>.of_eq (by simp [herr, hp])⟩
    · simp [exec, execUnpad, hv]
    · exact fun hwf => hlen.trans (of_decide_eq_true hwf)
  | false =>
    refine ⟨.error .invalidPadding, ?_, by rw [herr, hp]; rfl⟩
    simp [exec, execUnpad, unpad_of_not_padded hp]

/-- R242, R244: every command makes the checks of the error matrix in its order, and completes where they all pass. -/
theorem exec_followsMatrix (i : Instr) (s : State) (hkt : s.kv = true → s.tv = true) : FollowsMatrix i s := by
  cases i
  case unpad p => exact unpad_followsMatrix p s
  all_goals refine ⟨_, rfl, ?_⟩
  case' init p =>
    refine .of_eq ((noOperand_checks p).bind fun _ _ => checks_ok (completes_init p s)) ?_
  case' rdstat p =>
    refine .of_eq ((noOperand_checks p).bind fun _ _ => checks_ok (completes_read_byte _ rfl)) ?_
  case' gfinv p | affine p | xtime p =>
    refine .of_eq ((oneByte_checks p).bind fun _ _ => checks_ok (completes_read_byte _ rfl)) ?_
  case' sbox p | isbox p =>
    refine .of_eq ((oneByte_checks p).bind fun _ _ => (requireT_checks s).bind fun _ _ =>
      checks_ok (completes_read_byte _ rfl)) ?_
  case' ldst p =>
    refine .of_eq ((blockOperand_checks _ p).bind fun m _ => checks_ok (completes_write (.matrix m) rfl)) ?_
  case' rdst p =>
    refine .of_eq ((noOperand_checks p).bind fun _ _ => (requireS_checks s).bind fun m _ =>
      checks_ok (completes_read_block m rfl)) ?_
  case' subb p | isubb p =>
    refine .of_eq ((noOperand_checks p).bind fun _ _ => (requireT_checks s).bind fun _ _ =>
      (requireS_checks s).bind fun _ hm => checks_ok (completes_transform _ hm rfl)) ?_
  case' shrow p | ishrow p | mixc p | imixc p =>
    refine .of_eq ((noOperand_checks p).bind fun _ _ => (requireS_checks s).bind fun _ hm =>
      checks_ok (completes_transform _ hm rfl)) ?_
  case' addrk p =>
    refine .of_eq ((roundKeyIndex_checks p).bind fun _ _ => (requireK_checks s).bind fun _ _ =>
      (requireS_checks s).bind fun _ hm => checks_ok (completes_transform _ hm rfl)) ?_
  case' loadkey p =>
    refine .of_eq ((blockOperand_checks _ p).bind fun key _ => (requireT_checks s).bind fun _ ht =>
      checks_ok (completes_write (.key key ht) rfl)) ?_
  case' rdrk p =>
    refine .of_eq ((roundKeyIndex_checks p).bind fun _ _ => (requireK_checks s).bind fun _ _ =>
      checks_ok (completes_read_block _ rfl)) ?_
  case' clrkey p =>
    refine .of_eq ((noOperand_checks p).bind fun _ _ => checks_ok (completes_write .clear rfl)) ?_
  case' encb p | decb p =>
    refine .of_eq ((blockOperand_checks _ p).bind fun _ _ => (requireK_checks s).bind fun _ hk =>
      (requireT_checks_of_keyed hkt hk).bind fun _ _ => checks_ok ⟨.cipher, rfl, fun _ => block_fits _⟩) ?_
  case' loadiv p =>
    refine .of_eq ((blockOperand_checks _ p).bind fun c _ => checks_ok (completes_write (.ctr c) rfl)) ?_
  case' rdctr p =>
    refine .of_eq ((noOperand_checks p).bind fun _ _ => (requireC_checks s).bind fun c _ =>
      checks_ok (completes_read_block c rfl)) ?_
  case' incctr p =>
    refine .of_eq ((noOperand_checks p).bind fun _ _ => (requireC_checks s).bind fun _ hc =>
      checks_ok (completes_incctr _ hc)) ?_
  case' pad p =>
    refine .of_eq ((paddableMessage_checks p).bind fun m hm =>
      checks_ok (completes_read rfl fun _ => pad_fits hm)) ?_
  case' encs p =>
    refine .of_eq ((paddableMessage_checks p).bind fun _ hm => (requireK_checks s).bind fun _ hk =>
      (requireC_checks s).bind fun _ _ => (requireT_checks_of_keyed hkt hk).bind fun _ _ =>
      checks_ok ⟨.stream, rfl, fun _ => (length_stream_le ..).trans (pad_fits hm)⟩) ?_
  case' decs p =>
    refine .of_eq ((wholeBlocks_checks p).bind fun _ hd => (requireK_checks s).bind fun _ hk =>
      (requireC_checks s).bind fun _ _ => (requireT_checks_of_keyed hkt hk).bind fun _ _ =>
      checks_ok ⟨.stream, rfl, fun hwf => (length_stream_le ..).trans (hd ▸ of_decide_eq_true hwf)⟩) ?_
  all_goals simp [errorOf, lengthError, operandError, contentError, stateError_eq, requirements]

/-- Executing any command, said once: the error of the error matrix and nothing else changed, or completion. -/
theorem exec_outcome (i : Instr) {s : State} (hkt : s.kv = true → s.tv = true) :
    (∃ e, errorOf i s = some e ∧ exec i s = .next (s.raise e)) ∨
    (errorOf i s = none ∧ ∃ t v, exec i s = .next (t.respond v) ∧ Completes i s (t, v)) := by
  obtain ⟨a, ha, hc⟩ := exec_followsMatrix i s hkt
  rw [ha]
  cases he : errorOf i s with
  | some e => rw [he] at hc; cases hc; exact .inl ⟨e, rfl, rfl⟩
  | none =>
    rw [he] at hc
    obtain ⟨⟨t, v⟩, rfl, hcomp⟩ := hc
    exact .inr ⟨rfl, t, v, rfl, hcomp⟩

/-! ### Responses and packets -/

/-- A check whose error the engine may send. -/
theorem isResponse_of_ite {c : Prop} [Decidable c] {e e' : ErrorKind} (hr : isResponse e'.code [])
    (h : (if c then some e' else none) = some e) : isResponse e.code [] := by
  obtain ⟨-, he⟩ := Option.ite_none_right_eq_some.1 h
  exact Option.some.inj he ▸ hr

theorem lengthError_isResponse {i : Instr} {e : ErrorKind} (h : lengthError i = some e) : isResponse e.code [] := by
  cases i with
  | unpad p => cases h
  | _ => exact isResponse_of_ite (.inr ⟨by decide, rfl⟩) h

theorem operandError_isResponse {i : Instr} {e : ErrorKind} (h : operandError i = some e) : isResponse e.code [] := by
  cases i with
  | addrk p | rdrk p => exact isResponse_of_ite (.inr ⟨by decide, rfl⟩) h
  | _ => cases h

theorem stateError_isResponse {i : Instr} {s : State} {e : ErrorKind} (h : stateError i s = some e) :
    isResponse e.code [] := by
  simp only [stateError_eq, Option.or_eq_some_iff] at h
  obtain h | ⟨-, h | ⟨-, h | ⟨-, h⟩⟩⟩ := h
  all_goals exact isResponse_of_ite (.inr ⟨by decide, rfl⟩) h

theorem contentError_isResponse {i : Instr} {e : ErrorKind} (h : contentError i = some e) : isResponse e.code [] := by
  cases i with
  | unpad p =>
    obtain ⟨-, he⟩ := Option.ite_none_left_eq_some.1 h
    cases he
    exact .inr ⟨by decide, rfl⟩
  | _ => cases h

/-- R241, R248: no command answers one of the host-only error kinds. -/
theorem errorOf_isResponse {i : Instr} {s : State} {e : ErrorKind} (h : errorOf i s = some e) :
    isResponse e.code [] := by
  simp only [errorOf, Option.or_eq_some_iff] at h
  obtain (h | ⟨-, h⟩) | ⟨-, h | ⟨-, h⟩⟩ := h
  · exact lengthError_isResponse h
  · exact operandError_isResponse h
  · exact stateError_isResponse h
  · exact contentError_isResponse h

theorem isResponseStream_nil : isResponseStream [] := ⟨[], rfl, by simp⟩

/-- R84: a response packet after whole response packets. -/
theorem isResponseStream_append {bytes : Bytes} (h : isResponseStream bytes) {stat : Byte} {v : Bytes}
    (hr : isResponse stat v) : isResponseStream (bytes ++ (headerBytes stat v.length ++ v)) := by
  obtain ⟨rs, rfl, hrs⟩ := h
  refine ⟨rs ++ [(stat, v)], by simp, fun r hmem => ?_⟩
  rcases List.mem_append.1 hmem with hmem | hmem
  · exact hrs r hmem
  · cases List.mem_singleton.1 hmem; exact hr

/-- R85: the opcode map hands the payload on as it is. -/
theorem payload_of_decodeOpcode {opc : Byte} {p : Bytes} {i : Instr} (h : decodeOpcode opc p = some i) :
    i.payload = p := by
  unfold decodeOpcode at h
  split at h <;> cases h <;> rfl

/-- R92: three length bytes announce at most `MAX_LEN` payload bytes. -/
theorem headerLen_le (h1 h2 h3 : Byte) : headerLen h1 h2 h3 ≤ Config.maxLen := by
  simp only [headerLen, Config.maxLen]
  omega

/-- R82: a decoded command's payload fits the length field it came with. -/
theorem wellFormed_of_decode {bytes rest : Bytes} {i : Instr} (h : decode bytes = .instr i rest) :
    i.wellFormed = true := by
  unfold decode at h
  split at h
  next opc h1 h2 h3 tail =>
    split at h
    next hle =>
      split at h
      next j hj =>
        cases h
        refine decide_eq_true ?_
        rw [Instr.len, payload_of_decodeOpcode hj]
        exact (List.length_take_le _ _).trans (headerLen_le h1 h2 h3)
      next => cases h
    next => cases h
  next => cases h

/-! ### What a step can do -/

/-- R6, R271, R274: a step is a reset, one command, the answer to an illegal opcode, or waiting. -/
theorem step_cases {s t : State} (h : step s = .next t) :
    (s.rst = true ∧ t = State.reset) ∨
    (∃ i rest, decode (s.buffer ++ s.cmd) = .instr i rest ∧ exec i (s.consume rest) = .next t) ∨
    (∃ rest, t = (s.consume rest).raise .illegalCommand) ∨
    (decode (s.buffer ++ s.cmd) = .incomplete ∧ t = s.hold) := by
  unfold step at h
  split at h
  next hrst => cases h; exact .inl ⟨hrst, rfl⟩
  next =>
    split at h
    next i rest hd => exact .inr (.inl ⟨i, rest, hd, h⟩)
    next rest hd => cases h; exact .inr (.inr (.inl ⟨rest, rfl⟩))
    next hd => cases h; exact .inr (.inr (.inr ⟨hd, rfl⟩))

/-! ### The invariant of the reachable states -/

theorem decode_nil : decode [] = .incomplete := rfl

/-- R181: a schedule begins with the key it was expanded from. -/
theorem expandKey_get_zero (t : Tables) (key : Block) : (expandKey t key).get 0 = key := rfl

theorem inv_reset : Inv State.reset where
  keyed := nofun
  tablesBuilt := nofun
  schedule := nofun
  idle := ⟨rfl, rfl⟩
  waiting := decode_nil
  responses := isResponseStream_nil

theorem Inv.consume {s : State} (h : Inv s) (rest : Bytes) : Inv (s.consume rest) :=
  { h with waiting := decode_nil }

theorem Inv.hold {s : State} (h : Inv s) (hd : decode (s.buffer ++ s.cmd) = .incomplete) : Inv s.hold :=
  { h with waiting := hd }

theorem Inv.send {s : State} (h : Inv s) {stat : Byte} {v : Bytes} (hr : isResponse stat v) : Inv (s.send stat v) :=
  { h with responses := isResponseStream_append h.responses hr }

/-- R23, R24, R28, R31: no command's writes break the invariant. -/
theorem Written.inv {s t : State} (hw : Written s t) (h : Inv s) : Inv t := by
  cases hw with
  | nothing => exact h
  | tables _ => exact { h with keyed := fun _ => rfl, tablesBuilt := fun _ ht => (Option.some.inj ht).symm }
  | key key ht =>
    refine { h with keyed := fun _ => by simp [State.tv_eq, ht], schedule := fun k hk => ?_ }
    cases h.tablesBuilt _ ht
    cases hk
    rw [expandKey_get_zero]
  | clear => exact { h with keyed := nofun, schedule := nofun }
  | ctr _ => exact { h with }
  | matrix _ => exact { h with }
  | cipher => exact { h with idle := ⟨rfl, rfl⟩ }
  | stream => exact { h with idle := ⟨rfl, rfl⟩ }

theorem exec_keeps_inv {i : Instr} {s t : State} (hwf : i.wellFormed = true) (h : Inv s) (he : exec i s = .next t) :
    Inv t := by
  obtain ⟨e, herr, hx⟩ | ⟨-, u, v, hx, hc⟩ := exec_outcome i h.keyed
  · cases hx.symm.trans he
    exact h.send (errorOf_isResponse herr)
  · cases hx.symm.trans he
    exact (hc.written.inv h).send (.inl ⟨rfl, hc.fits hwf⟩)

/-- Settles O20, by the ways a step can go: the register part by what a command can write, the response part by the
error matrix and the lengths of answers. -/
theorem invariantHoldsAfterEveryStep : Obligations.InvariantHoldsAfterEveryStep := by
  intro s t h hstep
  obtain ⟨-, rfl⟩ | ⟨i, rest, hd, he⟩ | ⟨rest, rfl⟩ | ⟨hd, rfl⟩ := step_cases hstep
  · exact inv_reset
  · exact exec_keeps_inv (wellFormed_of_decode hd) (h.consume rest) he
  · exact (h.consume rest).send (.inr ⟨by decide, rfl⟩)
  · exact h.hold hd

/-! ### Flags and tables -/

/-- Settles O19: the flags of a completing command are part of `Completes`, an error response writes none. -/
theorem flagWritesFollowTheTable : Obligations.FlagWritesFollowTheTable := by
  refine ⟨fun i s t hkt he => ?_, rfl⟩
  obtain ⟨e, herr, hx⟩ | ⟨herr, u, v, hx, hc⟩ := exec_outcome i hkt
  · cases hx.symm.trans he
    exact ⟨fun h => absurd (herr.symm.trans h) nofun, fun _ => rfl⟩
  · cases hx.symm.trans he
    exact ⟨fun _ => hc.flags, fun h => absurd herr h⟩

/-- R24: the only write of the tables is the one that finds none. -/
theorem Written.tables_eq {s t : State} {tb : Tables} (hw : Written s t) (h : s.tables = some tb) :
    t.tables = some tb := by
  cases hw with
  | tables hn => cases hn.symm.trans h
  | _ => exact h

theorem exec_keeps_tables {i : Instr} {s t : State} {tb : Tables} (h : s.tables = some tb) (he : exec i s = .next t) :
    t.tables = some tb := by
  have htv : s.tv = true := by rw [State.tv_eq, h]; rfl
  obtain ⟨e, -, hx⟩ | ⟨-, u, v, hx, hc⟩ := exec_outcome i (s := s) fun _ => htv
  · cases hx.symm.trans he
    exact h
  · cases hx.symm.trans he
    exact hc.written.tables_eq h

/-- Settles O22, by the ways a step without reset can go. -/
theorem tablesStayUntilReset : Obligations.TablesStayUntilReset := by
  intro s t tb hrst h hstep
  obtain ⟨hreset, -⟩ | ⟨i, rest, -, he⟩ | ⟨rest, rfl⟩ | ⟨-, rfl⟩ := step_cases hstep
  · exact absurd hreset (by simp [hrst])
  · exact exec_keeps_tables (s := s.consume rest) h he
  · exact h
  · exact h

end Sys2Proof.Machine
end

section
/-! The statements of spec/20_memory.md: a step is one whole packet (R60), a stream of packets is the fold of its
commands (R60), and which commands change nothing, at once or when they are repeated (R58). -/

namespace Sys2Proof.Machine

/-! ### One step -/

/-- R60, R83: the step on a whole packet of a command, with reset released. -/
theorem step_of_decode {s : State} {i : Instr} {rest : Bytes} (hrst : s.rst = false)
    (hd : decode (s.buffer ++ s.cmd) = .instr i rest) : step s = exec i (s.consume rest) := by
  simp [step, hrst, hd]

/-- Settles O6: the step is `exec` on the state `consume` leaves. -/
theorem stepRunsTheDecodedCommand : Obligations.StepRunsTheDecodedCommand :=
  fun _ _ _ hrst hd => step_of_decode hrst hd

/-- R82, R83: the packet of a command is read back as that command, and what follows it is left. -/
theorem decode_encode_append {i : Instr} (hwf : i.wellFormed = true) (rest : Bytes) :
    decode (encode i ++ rest) = .instr i rest := by
  have hlen : i.len ≤ Config.maxLen := of_decide_eq_true hwf
  rw [encode, List.append_assoc, decode_headerBytes i.opcode hlen]
  simp [decodeTail, Instr.len, Laws.decodeOpcode_opcode]

/-! ### Commands do not see what waits on the command port -/

/-- An answer with `bytes` put on the command port behind it. -/
def sendBehind (bytes : Bytes) (a : Answer) : Answer := a.map fun r => (r.1.hostSend bytes, r.2)

/-- A check that does not see the command port, before a body that does not. -/
theorem bind_eq_sendBehind {α : Type} {bytes : Bytes} {c : Except ErrorKind α} {f g : α → Answer}
    (h : ∀ x, g x = sendBehind bytes (f x)) : (c >>= g) = sendBehind bytes (c >>= f) := by
  cases c with
  | ok x => exact h x
  | error e => rfl

/-- R10: the end of a command does not see the command port either. -/
theorem finish_sendBehind (bytes : Bytes) (s : State) (a : Answer) :
    ∃ t, finish s a = .next t ∧ finish (s.hostSend bytes) (sendBehind bytes a) = .next (t.hostSend bytes) := by
  cases a with
  | ok r => exact ⟨r.1.respond r.2, rfl, rfl⟩
  | error e => exact ⟨s.raise e, rfl, rfl⟩

/-- Every command's checks read the packet and the registers, and its body writes registers: bytes on the command port
make no difference to its answer. -/
theorem exec_eq_finish_sendBehind (i : Instr) (s : State) (bytes : Bytes) :
    ∃ a : Answer, exec i s = finish s a ∧
      exec i (s.hostSend bytes) = finish (s.hostSend bytes) (sendBehind bytes a) := by
  cases i <;> refine ⟨_, rfl, congrArg (finish _) ?_⟩
  case init p =>
    exact bind_eq_sendBehind fun _ => congrArg (fun t => Except.ok (t, []))
      (apply_ite (State.hostSend · bytes) (s.tv = true) s (s.setTables (some buildTables))).symm
  case unpad p => cases unpad p <;> rfl
  case rdstat p | gfinv p | affine p | xtime p | ldst p | clrkey p | loadiv p | pad p =>
    exact bind_eq_sendBehind fun _ => rfl
  case sbox p | isbox p | rdst p | shrow p | ishrow p | mixc p | imixc p | loadkey p | rdrk p | rdctr p | incctr p =>
    exact bind_eq_sendBehind fun _ => bind_eq_sendBehind fun _ => rfl
  case subb p | isubb p | addrk p | encb p | decb p =>
    exact bind_eq_sendBehind fun _ => bind_eq_sendBehind fun _ => bind_eq_sendBehind fun _ => rfl
  case encs p | decs p =>
    exact bind_eq_sendBehind fun _ => bind_eq_sendBehind fun _ => bind_eq_sendBehind fun _ =>
      bind_eq_sendBehind fun _ => rfl

/-- R60: a command does the same whatever waits behind it on the command port, and leaves that there. -/
theorem exec_hostSend (i : Instr) (s : State) (bytes : Bytes) :
    ∃ t, exec i s = .next t ∧ exec i (s.hostSend bytes) = .next (t.hostSend bytes) := by
  obtain ⟨a, hs, hb⟩ := exec_eq_finish_sendBehind i s bytes
  rw [hs, hb]
  exact finish_sendBehind bytes s a

/-! ### A stream of packets -/

/-- An engine at a packet boundary, with nothing offered to it and reset released. -/
structure Idle (s : State) : Prop where
  rst : s.rst = false
  buffer : s.buffer = []
  cmd : s.cmd = []

theorem Idle.of_samePorts {s t : State} (h : Idle s) (hp : SamePorts s t) : Idle t :=
  ⟨hp.rst.trans h.rst, hp.buffer.trans h.buffer, hp.cmd.trans h.cmd⟩

theorem Idle.send {s : State} (h : Idle s) (stat : Byte) (v : Bytes) : Idle (s.send stat v) := ⟨h.rst, h.buffer, h.cmd⟩

theorem Idle.after_exec {i : Instr} {s t : State} (h : Idle s) (he : exec i s = .next t) : Idle t := by
  obtain ⟨u, v, hx, hp⟩ | ⟨e, hx⟩ := exec_cases i s
  · cases hx.symm.trans he
    exact (h.of_samePorts hp).send _ _
  · cases hx.symm.trans he
    exact h.send _ _

/-- R83: consuming the front of what an idle engine is offered leaves what is offered behind it. -/
theorem Idle.consume_hostSend {s : State} (h : Idle s) (bytes rest : Bytes) :
    (s.hostSend bytes).consume rest = s.hostSend rest := by
  simp [State.consume, State.hostSend, h.buffer, h.cmd]

/-- R60: the step of an idle engine offered the packet of `i` executes `i` and leaves the rest offered. -/
theorem Idle.step_encode {i : Instr} {s t : State} (h : Idle s) (hwf : i.wellFormed = true) (he : exec i s = .next t)
    (rest : Bytes) : step (s.hostSend (encode i ++ rest)) = .next (t.hostSend rest) := by
  have hd : decode ((s.hostSend (encode i ++ rest)).buffer ++ (s.hostSend (encode i ++ rest)).cmd) = .instr i rest := by
    simpa [h.buffer, h.cmd] using decode_encode_append hwf rest
  obtain ⟨t', ht', hsend⟩ := exec_hostSend i s rest
  cases ht'.symm.trans he
  rw [step_of_decode (s := s.hostSend _) h.rst hd, h.consume_hostSend, hsend]

theorem runSteps_succ {s t : State} (h : step s = .next t) (n : Nat) : runSteps (n + 1) s = runSteps n t := by
  rw [runSteps, h]

theorem runCommands_cons {i : Instr} {s t : State} (h : exec i s = .next t) (is : List Instr) :
    runCommands (i :: is) s = runCommands is t := by
  rw [runCommands, List.foldl_cons, h, runCommands]

theorem State.hostSend_nil (s : State) : s.hostSend [] = s := by
  simp [State.hostSend]

/-- R60: the induction on the commands of the stream; each step consumes the first packet and leaves an idle engine
with the rest of the stream offered. -/
theorem Idle.runSteps_packets {is : List Instr} {s : State} (h : Idle s) (hwf : ∀ i ∈ is, i.wellFormed = true) :
    runSteps is.length (s.hostSend (is.flatMap encode)) = .next (runCommands is s) := by
  induction is generalizing s with
  | nil => exact congrArg Host.Outcome.next s.hostSend_nil
  | cons i is ih =>
    obtain ⟨hi, his⟩ := List.forall_mem_cons.1 hwf
    obtain ⟨t, he, -⟩ := exec_hostSend i s []
    rw [List.flatMap_cons, List.length_cons, runSteps_succ (h.step_encode hi he _), runCommands_cons he]
    exact ih (h.after_exec he) his

/-- Settles O12, by induction on the commands. -/
theorem packetStreamRunsAsTheFoldOfItsCommands : Obligations.PacketStreamRunsAsTheFoldOfItsCommands :=
  fun _ _ hrst hbuffer hcmd hwf => Idle.runSteps_packets ⟨hrst, hbuffer, hcmd⟩ hwf

/-! ### Commands that change nothing -/

/-- The answer `a`, where it is no error, writes nothing in the state `s`. -/
def ReadsOnly (s : State) (a : Answer) : Prop := ∀ t v, a = .ok (t, v) → t = s

theorem readsOnly_ok (s : State) (v : Bytes) : ReadsOnly s (.ok (s, v)) := by
  rintro _ _ ⟨⟩; rfl

theorem readsOnly_error (s : State) (e : ErrorKind) : ReadsOnly s (.error e) := nofun

theorem readsOnly_bind {α : Type} {s : State} {c : Except ErrorKind α} {f : α → Answer}
    (h : ∀ x, ReadsOnly s (f x)) : ReadsOnly s (c >>= f) :=
  answer_bind_elim (readsOnly_error s) fun x _ => h x

/-- A command that writes nothing leaves everything but the sent bytes as it was. -/
theorem ReadsOnly.finish_frame {s t : State} {a : Answer} (h : ReadsOnly s a) (hf : finish s a = .next t) :
    t = { s with rsp := t.rsp } := by
  obtain ⟨u, v, ha, hx⟩ | ⟨e, -, hx⟩ := finish_cases s a
  · cases h u v ha
    cases hx.symm.trans hf
    rfl
  · cases hx.symm.trans hf
    rfl

/-- R58: the reads and the pure functions. -/
def readsAndPureFunctions (p : Bytes) : List Instr :=
  [.rdstat p, .rdst p, .rdrk p, .rdctr p, .sbox p, .isbox p, .gfinv p, .affine p, .xtime p, .pad p, .unpad p]

/-- R58: no read and no pure function has a write in its body. -/
theorem exec_readsOnly {p : Bytes} {i : Instr} (hi : i ∈ readsAndPureFunctions p) (s : State) :
    ∃ a : Answer, exec i s = finish s a ∧ ReadsOnly s a := by
  cases i <;> simp [readsAndPureFunctions] at hi <;> refine ⟨_, rfl, ?_⟩
  case rdstat q | gfinv q | affine q | xtime q | pad q => exact readsOnly_bind fun _ => readsOnly_ok s _
  case rdst q | rdrk q | rdctr q | sbox q | isbox q =>
    exact readsOnly_bind fun _ => readsOnly_bind fun _ => readsOnly_ok s _
  case unpad q =>
    cases unpad q with
    | some m => exact readsOnly_ok s m
    | none => exact readsOnly_error s _

/-- Settles O23: the body writes nothing, so only the response is new. -/
theorem readsAndPureFunctionsChangeNothing : Obligations.ReadsAndPureFunctionsChangeNothing := by
  intro s t p i hi he
  obtain ⟨a, ha, hr⟩ := exec_readsOnly hi s
  exact hr.finish_frame (ha.symm.trans he)

/-! ### Commands that change nothing when they are repeated -/

/-- A command with the body `body`, executed in `s`, leaves a state in which `body` writes nothing. -/
def Repeatable (body : State → Answer) (s : State) : Prop := ∀ t, finish s (body s) = .next t → ReadsOnly t (body t)

/-- A check of the packet alone comes out the same the second time. -/
theorem repeatable_bind {α : Type} {s : State} {c : Except ErrorKind α} {body : α → State → Answer}
    (h : ∀ x, Repeatable (body x) s) : Repeatable (fun s => c >>= fun x => body x s) s := by
  cases c with
  | ok x => exact h x
  | error e => exact fun t _ => readsOnly_error t e

/-- A write that finds its own result writes nothing. -/
theorem repeatable_write {s : State} {w : State → State} (h : w ((w s).respond []) = (w s).respond []) :
    Repeatable (fun s => .ok (w s, [])) s := by
  rintro _ ⟨⟩ _ _ ⟨⟩
  exact h

/-- R132: after `INIT` the tables are there, so a second `INIT` finds `TV` = 1. -/
theorem repeatable_init (s : State) :
    Repeatable (fun s => .ok (if s.tv then s else s.setTables (some buildTables), [])) s := by
  refine repeatable_write (w := fun s => if s.tv then s else s.setTables (some buildTables)) (if_pos ?_)
  cases htv : s.tv with
  | true => simpa [State.tv_eq] using htv
  | false => rfl

/-- R178: a key is expanded over the same tables the second time, or finds none again. -/
theorem repeatable_setRk (key : Block) (s : State) :
    Repeatable (fun s => requireT s >>= fun t => .ok (s.setRk (some (expandKey t key)), [])) s := by
  intro t ht
  beta_reduce at ht ⊢
  cases hc : requireT s with
  | error e =>
    rw [hc] at ht
    cases ht
    have again : requireT (s.raise e) = .error e := hc
    rw [again]
    exact readsOnly_error _ e
  | ok tb =>
    rw [hc] at ht
    cases ht
    have again : requireT ((s.setRk (some (expandKey tb key))).respond []) = .ok tb := hc
    rw [again]
    exact readsOnly_ok _ []

/-- R58: the loads, `INIT` and `CLRKEY`. -/
def loadsAndInit (p : Bytes) : List Instr := [.init p, .loadkey p, .loadiv p, .ldst p, .clrkey p]

/-- R58: each of these commands finds the second time what it wrote the first time. -/
theorem exec_repeatable {p : Bytes} {i : Instr} (hi : i ∈ loadsAndInit p) :
    ∃ body : State → Answer, ∀ s, exec i s = finish s (body s) ∧ Repeatable body s := by
  cases i <;> simp [loadsAndInit] at hi <;> refine ⟨_, fun s => ⟨rfl, ?_⟩⟩
  case init q => exact repeatable_bind fun _ => repeatable_init s
  case loadkey q => exact repeatable_bind fun key => repeatable_setRk key s
  case loadiv q => exact repeatable_bind fun c => repeatable_write (w := (State.setCtr · (some c))) rfl
  case ldst q => exact repeatable_bind fun m => repeatable_write (w := (State.setMatrix · (some m))) rfl
  case clrkey q =>
    exact repeatable_bind fun _ => repeatable_write (w := fun s => ((s.setRk none).setCtr none).setMatrix none) rfl

/-- Settles O24: the second execution writes nothing. -/
theorem loadsAndInitAreIdempotent : Obligations.LoadsAndInitAreIdempotent := by
  intro s t u p i hi hst htu
  obtain ⟨body, hbody⟩ := exec_repeatable hi
  obtain ⟨hs, hrep⟩ := hbody s
  exact (hrep t (hs.symm.trans hst)).finish_frame ((hbody t).1.symm.trans htu)

end Sys2Proof.Machine
end

section
/-! The statements of spec/30_encoding.md: packets and their two directions (R82, R83, R85, R92), the one response
every command sends (R84, R88), and the block cipher by the primitive commands (R90). -/

namespace Sys2Proof.Machine

/-! ### The opcode map -/

/-- R85: an opcode that selects a command is that command's own. -/
theorem opcode_of_decodeOpcode {opc : Byte} {p : Bytes} {i : Instr} (h : decodeOpcode opc p = some i) :
    i.opcode = opc := by
  unfold decodeOpcode at h
  split at h <;> cases h
  all_goals exact BitVec.eq_of_toNat_eq (Eq.symm ‹opc.toNat = _›)

/-- R85: the opcode map answers a command exactly on that command's own opcode and payload. -/
theorem decodeOpcode_eq_some {opc : Byte} {p : Bytes} {i : Instr} :
    decodeOpcode opc p = some i ↔ i.opcode = opc ∧ i.payload = p := by
  constructor
  · exact fun h => ⟨opcode_of_decodeOpcode h, payload_of_decodeOpcode h⟩
  · rintro ⟨rfl, rfl⟩
    exact Laws.decodeOpcode_opcode i

/-- R85: every row of the listed map is a command with payload `p` beside its opcode. -/
theorem opcode_and_payload_of_mem {p : Bytes} : ∀ r ∈ opcodeMap p, r.2.opcode = r.1 ∧ r.2.payload = p := by
  simp [opcodeMap, Instr.opcode, Instr.payload]

/-- R85: every command has its row in the listed map. -/
theorem opcode_row_mem (i : Instr) : (i.opcode, i) ∈ opcodeMap i.payload := by
  cases i <;> simp [opcodeMap, Instr.opcode, Instr.payload]

/-- R85, R87: the listed map and the decoder's are one: a row is what the decoder selects. -/
theorem mem_opcodeMap_iff_decodeOpcode {p : Bytes} {opc : Byte} {i : Instr} :
    (opc, i) ∈ opcodeMap p ↔ decodeOpcode opc p = some i := by
  rw [decodeOpcode_eq_some]
  constructor
  · exact opcode_and_payload_of_mem (opc, i)
  · rintro ⟨rfl, rfl⟩
    exact opcode_row_mem i

/-- Settles O3: the rows are exactly the opcodes and commands the decoder pairs. -/
theorem opcodeMapSelectsTheListedCommands : Obligations.OpcodeMapSelectsTheListedCommands := by
  refine fun p => ⟨fun r hr => ⟨mem_opcodeMap_iff_decodeOpcode.1 hr, opcode_and_payload_of_mem r hr⟩, fun opc => ?_⟩
  constructor
  · rintro hnone ⟨_, i⟩ hr rfl
    cases hnone.symm.trans (mem_opcodeMap_iff_decodeOpcode.1 hr)
  · intro hrows
    refine Option.eq_none_iff_forall_ne_some.2 fun i hi => ?_
    exact hrows (opc, i) (mem_opcodeMap_iff_decodeOpcode.2 hi) rfl

/-! ### Packets -/

/-- R83: what the decoder reads from four header bytes and the bytes after them. -/
theorem decode_header (opc h1 h2 h3 : Byte) (tail : Bytes) :
    decode (opc :: h1 :: h2 :: h3 :: tail) = decodeTail opc tail (headerLen h1 h2 h3) := rfl

/-- R83: a stream is shorter than a header, and then incomplete, or begins with one. -/
theorem decode_incomplete_or_header (bytes : Bytes) :
    (bytes.length < 4 ∧ decode bytes = .incomplete) ∨
    ∃ opc h1 h2 h3 tail, bytes = opc :: h1 :: h2 :: h3 :: tail :=
  match bytes with
  | [] | [_] | [_, _] | [_, _, _] => .inl ⟨by simp, rfl⟩
  | opc :: h1 :: h2 :: h3 :: tail => .inr ⟨opc, h1, h2, h3, tail, rfl⟩

/-- R82, R92: the header that announces the length its own three length bytes say is that header. -/
theorem headerBytes_headerLen (opc h1 h2 h3 : Byte) : headerBytes opc (headerLen h1 h2 h3) = [opc, h1, h2, h3] := by
  have back (n : Nat) (b : Byte) (h : n % 256 = b.toNat) : BitVec.ofNat 8 n = b :=
    BitVec.eq_of_toNat_eq ((BitVec.toNat_ofNat n 8).trans h)
  unfold headerBytes headerLen
  rw [back _ h1 (by omega), back _ h2 (by omega), back _ h3 (by omega)]

/-- R83: a payload is waited for exactly while fewer bytes have come than announced. -/
theorem decodeTail_eq_incomplete {opc : Byte} {tail : Bytes} {n : Nat} :
    decodeTail opc tail n = .incomplete ↔ tail.length < n := by
  unfold decodeTail
  split
  next hle =>
    refine iff_of_false ?_ (by omega)
    split <;> nofun
  next hlt => exact iff_of_true rfl (by omega)

/-- R83: what is read as a command is the announced payload and leaves the bytes behind it. -/
theorem decodeTail_eq_instr {opc : Byte} {tail rest : Bytes} {n : Nat} {i : Instr}
    (h : decodeTail opc tail n = .instr i rest) :
    n ≤ tail.length ∧ decodeOpcode opc (tail.take n) = some i ∧ tail.drop n = rest := by
  unfold decodeTail at h
  split at h
  next hle =>
    split at h
    next j hj => cases h; exact ⟨hle, hj, rfl⟩
    next => cases h
  next => cases h

/-- R82, R83: the bytes read as a command are its packet. -/
theorem eq_encode_of_decode {bytes rest : Bytes} {i : Instr} (h : decode bytes = .instr i rest) :
    bytes = encode i ++ rest := by
  obtain ⟨-, hinc⟩ | ⟨opc, h1, h2, h3, tail, rfl⟩ := decode_incomplete_or_header bytes
  · cases hinc.symm.trans h
  · obtain ⟨hle, hi, rfl⟩ := decodeTail_eq_instr ((decode_header opc h1 h2 h3 tail).symm.trans h)
    obtain ⟨hopc, hpay⟩ := decodeOpcode_eq_some.1 hi
    have hlen : i.len = headerLen h1 h2 h3 := by rw [Instr.len, hpay, List.length_take, min_eq_left hle]
    rw [encode, hopc, hlen, hpay, headerBytes_headerLen, List.append_assoc, List.take_append_drop]
    rfl

/-- Settles O1: the header gives the length back, the opcode map the command. -/
theorem decodeOfEncodeIsTheInstruction : Obligations.DecodeOfEncodeIsTheInstruction :=
  fun _ rest hwf => decode_encode_append hwf rest

/-- Settles O2: the decoder's header and payload are those `encode` writes. -/
theorem decodedBytesAreTheInstructionsPacket : Obligations.DecodedBytesAreTheInstructionsPacket :=
  fun _ _ _ h => ⟨wellFormed_of_decode h, eq_encode_of_decode h⟩

/-- Settles O4: without a header both sides hold; with one, both compare the payload with `LEN`. -/
theorem incompleteExactlyWhenPacketIsShort : Obligations.IncompleteExactlyWhenPacketIsShort := by
  intro bytes
  obtain ⟨hshort, hinc⟩ | ⟨opc, h1, h2, h3, tail, rfl⟩ := decode_incomplete_or_header bytes
  · refine iff_of_true hinc ?_
    rintro h0 h1 h2 h3 tail rfl
    simp only [List.length_cons] at hshort
    omega
  · rw [decode_header, decodeTail_eq_incomplete]
    constructor
    · rintro hlt _ _ _ _ _ ⟨⟩
      exact hlt
    · exact fun h => h opc h1 h2 h3 tail rfl

/-- Settles O5: the decoder evaluated on each packet. -/
theorem samplePacketsDecode : Obligations.SamplePacketsDecode :=
  ⟨decode_encode_append (i := .rdstat []) rfl [], decode_encode_append (i := .gfinv [0x53]) rfl [],
    decode_encode_append (i := .addrk [0x0b]) rfl [0x32],
    decode_encode_append (i := .pad [0x68, 0x65, 0x6c, 0x6c, 0x6f]) rfl [], by decide, by decide⟩

/-! ### Responses -/

/-- Settles O13: both are one response packet on the response port. -/
theorem responsesChangeOnlyTheResponsePort : Obligations.ResponsesChangeOnlyTheResponsePort :=
  fun _ => ⟨fun _ => rfl, fun _ => rfl⟩

/-- R88, R241: `c` has a value that meets `P`, or ends with an error whose code the engine may send. Unlike `Checks`
it does not say which, so it holds of the commands in every state, also in one with a key and without tables. -/
def Legal {α : Type} (P : α → Prop) (c : Except ErrorKind α) : Prop :=
  match c with
  | .ok x => P x
  | .error e => isResponse e.code []

theorem legal_ok {α : Type} {P : α → Prop} {x : α} (h : P x) : Legal P (.ok x) := h

theorem Legal.bind {α β : Type} {P : α → Prop} {Q : β → Prop} {c : Except ErrorKind α} {f : α → Except ErrorKind β}
    (hc : Legal P c) (hf : ∀ x, P x → Legal Q (f x)) : Legal Q (c >>= f) := by
  cases c with
  | ok x => exact hf x hc
  | error e => exact hc

theorem Checks.legal {α : Type} {err : Option ErrorKind} {P : α → Prop} {c : Except ErrorKind α}
    (hc : Checks err P c) (herr : ∀ e, err = some e → isResponse e.code []) : Legal P c := by
  cases err with
  | some e => cases hc; exact herr e rfl
  | none => obtain ⟨x, rfl, hx⟩ := hc; exact hx

/-- A single check whose error is one of the codes the engine uses. -/
theorem Checks.legal_of_code {α : Type} {b : Prop} [Decidable b] {e : ErrorKind} {P : α → Prop}
    {c : Except ErrorKind α} (hc : Checks (if b then some e else none) P c) (hr : isResponse e.code []) : Legal P c :=
  hc.legal fun _ => isResponse_of_ite hr

theorem noOperand_legal (p : Bytes) : Legal (fun _ => True) (noOperand p) :=
  (noOperand_checks p).legal_of_code (.inr ⟨by decide, rfl⟩)

theorem oneByte_legal (p : Bytes) : Legal (fun x => p = [x]) (oneByte p) :=
  (oneByte_checks p).legal_of_code (.inr ⟨by decide, rfl⟩)

theorem roundKeyIndex_legal (p : Bytes) : Legal (fun _ => True) (roundKeyIndex p) := by
  refine (roundKeyIndex_checks p).legal fun e he => ?_
  obtain h | ⟨-, h⟩ := Option.or_eq_some_iff.1 he
  all_goals exact isResponse_of_ite (.inr ⟨by decide, rfl⟩) h

theorem blockOperand_legal {e : ErrorKind} (hr : isResponse e.code []) (p : Bytes) :
    Legal (fun _ => True) (blockOperand e p) :=
  (blockOperand_checks e p).legal_of_code hr

theorem paddableMessage_legal (p : Bytes) : Legal (fun m => m.length ≤ Config.maxPadIn) (paddableMessage p) :=
  (paddableMessage_checks p).legal_of_code (.inr ⟨by decide, rfl⟩)

theorem wholeBlocks_legal (p : Bytes) : Legal (fun d => d = p) (wholeBlocks p) :=
  (wholeBlocks_checks p).legal_of_code (.inr ⟨by decide, rfl⟩)

theorem requireT_legal (s : State) : Legal (fun t => s.tables = some t) (requireT s) :=
  (requireT_checks s).legal_of_code (.inr ⟨by decide, rfl⟩)

theorem requireK_legal (s : State) : Legal (fun k => s.rk = some k) (requireK s) :=
  (requireK_checks s).legal_of_code (.inr ⟨by decide, rfl⟩)

theorem requireC_legal (s : State) : Legal (fun c => s.ctr = some c) (requireC s) :=
  (requireC_checks s).legal_of_code (.inr ⟨by decide, rfl⟩)

theorem requireS_legal (s : State) : Legal (fun m => s.matrix = some m) (requireS s) :=
  (requireS_checks s).legal_of_code (.inr ⟨by decide, rfl⟩)

/-- R88: one byte fits a response. -/
theorem byte_fits (x : Byte) : [x].length ≤ Config.maxLen := by simp [Config.maxLen]

/-- R216: `unpad` answers no more bytes than it takes. -/
theorem length_of_unpad {m v : Bytes} (h : unpad m = some v) : v.length ≤ m.length := by
  cases hp : isPadded m with
  | true =>
    obtain ⟨w, hw, hlen⟩ := unpad_of_padded hp
    cases hw.symm.trans h
    exact hlen
  | false => cases (unpad_of_not_padded hp).symm.trans h

/-- R84, R88: the written state `r.1` has sent nothing yet, and the payload `r.2` of the response fits `RLEN`. -/
structure Answers (s : State) (r : State × Bytes) : Prop where
  rsp : r.1.rsp = s.rsp
  fits : r.2.length ≤ Config.maxLen

/-- R88, R241: whatever a command answers, in whatever state, is a legal response: its error is a code the engine uses,
its payload fits `RLEN`. -/
theorem exec_legal (i : Instr) (s : State) (hwf : i.wellFormed = true) :
    ∃ a : Answer, exec i s = finish s a ∧ Legal (Answers s) a := by
  cases i <;> refine ⟨_, rfl, ?_⟩
  case init p => exact (noOperand_legal p).bind fun _ _ => legal_ok ⟨by split <;> rfl, Nat.zero_le _⟩
  case clrkey p => exact (noOperand_legal p).bind fun _ _ => legal_ok ⟨rfl, Nat.zero_le _⟩
  case rdstat p => exact (noOperand_legal p).bind fun _ _ => legal_ok ⟨rfl, byte_fits _⟩
  case gfinv p | affine p | xtime p => exact (oneByte_legal p).bind fun _ _ => legal_ok ⟨rfl, byte_fits _⟩
  case sbox p | isbox p =>
    exact (oneByte_legal p).bind fun _ _ => (requireT_legal s).bind fun _ _ => legal_ok ⟨rfl, byte_fits _⟩
  case ldst p | loadiv p =>
    exact (blockOperand_legal (.inr ⟨by decide, rfl⟩) p).bind fun _ _ => legal_ok ⟨rfl, Nat.zero_le _⟩
  case rdst p =>
    exact (noOperand_legal p).bind fun _ _ => (requireS_legal s).bind fun m _ => legal_ok ⟨rfl, block_fits m⟩
  case subb p | isubb p =>
    exact (noOperand_legal p).bind fun _ _ => (requireT_legal s).bind fun _ _ => (requireS_legal s).bind fun _ _ =>
      legal_ok ⟨rfl, Nat.zero_le _⟩
  case shrow p | ishrow p | mixc p | imixc p =>
    exact (noOperand_legal p).bind fun _ _ => (requireS_legal s).bind fun _ _ => legal_ok ⟨rfl, Nat.zero_le _⟩
  case addrk p =>
    exact (roundKeyIndex_legal p).bind fun _ _ => (requireK_legal s).bind fun _ _ => (requireS_legal s).bind fun _ _ =>
      legal_ok ⟨rfl, Nat.zero_le _⟩
  case loadkey p =>
    exact (blockOperand_legal (.inr ⟨by decide, rfl⟩) p).bind fun _ _ => (requireT_legal s).bind fun _ _ =>
      legal_ok ⟨rfl, Nat.zero_le _⟩
  case rdrk p =>
    exact (roundKeyIndex_legal p).bind fun _ _ => (requireK_legal s).bind fun _ _ => legal_ok ⟨rfl, block_fits _⟩
  case encb p | decb p =>
    exact (blockOperand_legal (.inr ⟨by decide, rfl⟩) p).bind fun _ _ => (requireK_legal s).bind fun _ _ =>
      (requireT_legal s).bind fun _ _ => legal_ok ⟨rfl, block_fits _⟩
  case rdctr p =>
    exact (noOperand_legal p).bind fun _ _ => (requireC_legal s).bind fun c _ => legal_ok ⟨rfl, block_fits c⟩
  case incctr p =>
    exact (noOperand_legal p).bind fun _ _ => (requireC_legal s).bind fun _ _ => legal_ok ⟨rfl, Nat.zero_le _⟩
  case pad p => exact (paddableMessage_legal p).bind fun _ hm => legal_ok ⟨rfl, pad_fits hm⟩
  case unpad p =>
    cases hu : unpad p with
    | some v => exact legal_ok ⟨rfl, (length_of_unpad hu).trans (of_decide_eq_true hwf)⟩
    | none => exact .inr ⟨by decide, rfl⟩
  case encs p =>
    exact (paddableMessage_legal p).bind fun _ hm => (requireK_legal s).bind fun _ _ =>
      (requireC_legal s).bind fun _ _ => (requireT_legal s).bind fun _ _ =>
      legal_ok ⟨rfl, (length_stream_le ..).trans (pad_fits hm)⟩
  case decs p =>
    exact (wholeBlocks_legal p).bind fun _ hd => (requireK_legal s).bind fun _ _ =>
      (requireC_legal s).bind fun _ _ => (requireT_legal s).bind fun _ _ =>
      legal_ok ⟨rfl, (length_stream_le ..).trans (hd ▸ of_decide_eq_true hwf)⟩

/-- Settles O18: both ends of a command send one packet, and both are legal. -/
theorem everyCommandSendsExactlyOneResponse : Obligations.EveryCommandSendsExactlyOneResponse := by
  intro i s hwf
  obtain ⟨a, ha, hlegal⟩ := exec_legal i s hwf
  cases a with
  | ok r =>
    obtain ⟨hrsp, hfits⟩ := hlegal
    exact ⟨r.1.respond r.2, 0x00, r.2, ha, .inl ⟨rfl, hfits⟩, by rw [State.respond_rsp, hrsp]⟩
  | error e => exact ⟨s.raise e, e.code, [], ha, hlegal, rfl⟩

/-! ### The block cipher by the primitive commands -/

/-- The tables `t` and the round keys `k` are loaded, and `m` is the State Matrix. -/
structure Loaded (t : Tables) (k : RoundKeys) (m : Block) (s : State) : Prop where
  tables : s.tables = some t
  rk : s.rk = some k
  matrix : s.matrix = some m

/-- With `t` and `k` loaded, the commands `is` turn every State Matrix `m` into `f m` and keep `t` and `k`. -/
def Transforms (t : Tables) (k : RoundKeys) (is : List Instr) (f : Block → Block) : Prop :=
  ∀ m s, Loaded t k m s → Loaded t k (f m) (runCommands is s)

section
variable {t : Tables} {k : RoundKeys}

theorem transforms_nil : Transforms t k [] id := fun _ _ h => h

/-- R60: commands after commands. -/
theorem Transforms.append {is js : List Instr} {f g : Block → Block} (hf : Transforms t k is f)
    (hg : Transforms t k js g) : Transforms t k (is ++ js) (g ∘ f) := by
  intro m s h
  rw [runCommands, List.foldl_append]
  exact hg _ _ (hf m s h)

/-- One command sequence for each index of a list: the State Matrix goes through the stages in the order of the list. -/
theorem transforms_flatMap {is : Fin 11 → List Instr} {stage : Block → Fin 11 → Block}
    (h : ∀ r, Transforms t k (is r) (stage · r)) (rs : List (Fin 11)) :
    Transforms t k (rs.flatMap is) (rs.foldl stage ·) := by
  induction rs with
  | nil => exact transforms_nil
  | cons r rs ih => exact (h r).append ih

/-- A single command that completes with a new State Matrix. -/
theorem transforms_singleton {i : Instr} {f : Block → Block}
    (h : ∀ m s, Loaded t k m s → exec i s = .next ((s.setMatrix (some (f m))).respond [])) : Transforms t k [i] f := by
  intro m s hl
  rw [runCommands_cons (h m s hl)]
  exact ⟨hl.tables, hl.rk, rfl⟩

theorem transforms_subb : Transforms t k [.subb []] (substituteBytes t) :=
  transforms_singleton fun _ s hl => by simp [exec, execSubb, requireT_some hl.tables, requireS_some hl.matrix]

theorem transforms_isubb : Transforms t k [.isubb []] (invSubstituteBytes t) :=
  transforms_singleton fun _ s hl => by simp [exec, execIsubb, requireT_some hl.tables, requireS_some hl.matrix]

theorem transforms_shrow : Transforms t k [.shrow []] shiftRows :=
  transforms_singleton fun _ s hl => by simp [exec, execShrow, requireS_some hl.matrix]

theorem transforms_ishrow : Transforms t k [.ishrow []] invShiftRows :=
  transforms_singleton fun _ s hl => by simp [exec, execIshrow, requireS_some hl.matrix]

theorem transforms_mixc : Transforms t k [.mixc []] mixColumns :=
  transforms_singleton fun _ s hl => by simp [exec, execMixc, requireS_some hl.matrix]

theorem transforms_imixc : Transforms t k [.imixc []] invMixColumns :=
  transforms_singleton fun _ s hl => by simp [exec, execImixc, requireS_some hl.matrix]

/-- The operand byte of the round-key index `r`. -/
def indexByte (r : Fin 11) : Byte := BitVec.ofNat 8 r.val

/-- R86: the index byte of `r` is the operand `r`. -/
theorem roundKeyIndex_indexByte (r : Fin 11) : roundKeyIndex [indexByte r] = .ok r := by
  have hr : (indexByte r).toNat = r.val := by simp only [indexByte, BitVec.toNat_ofNat]; omega
  rw [roundKeyIndex_of_lt (by omega)]
  exact congrArg _ (Fin.ext hr)

theorem transforms_addrk (r : Fin 11) : Transforms t k [.addrk [indexByte r]] (addRoundKey · (k.get r)) :=
  transforms_singleton fun _ s hl => by
    simp [exec, execAddrk, roundKeyIndex_indexByte, requireK_some hl.rk, requireS_some hl.matrix]

/-- R90: the commands of the encryption stage `r`: `ADDRK 00`, `ROUND r` or `FINAL`. -/
def encryptCommands (r : Fin 11) : List Instr :=
  if r.val = 0 then [.addrk [0x00]] else if r.val < Config.rounds then (Pseudo.round (indexByte r)).expand
  else Pseudo.final.expand

/-- R90: the commands of the decryption stage `r`: `IFINAL`, `IROUND r` or `ADDRK 00`. -/
def decryptCommands (r : Fin 11) : List Instr :=
  if r.val = 0 then [.addrk [0x00]] else if r.val < Config.rounds then (Pseudo.iround (indexByte r)).expand
  else Pseudo.ifinal.expand

theorem encryptByHand_eq_flatMap : encryptByHand = rndSequence.flatMap encryptCommands := rfl

theorem decryptByHand_eq_flatMap : decryptByHand = rndSequence.reverse.flatMap decryptCommands := rfl

/-- R191: the commands of a stage do what the sequencer does in that stage. -/
theorem transforms_encryptCommands (r : Fin 11) : Transforms t k (encryptCommands r) (encryptStage t k · r) := by
  unfold encryptCommands encryptStage
  split_ifs with h0 h10
  · obtain rfl : r = 0 := Fin.ext h0
    exact transforms_addrk 0
  · exact ((transforms_subb.append transforms_shrow).append transforms_mixc).append (transforms_addrk r)
  · obtain rfl : r = 10 := Fin.ext (by simp only [Config.rounds] at h10; omega)
    exact (transforms_subb.append transforms_shrow).append (transforms_addrk 10)

/-- R193: the commands of a mirrored stage do what the sequencer does in that stage. -/
theorem transforms_decryptCommands (r : Fin 11) : Transforms t k (decryptCommands r) (decryptStage t k · r) := by
  unfold decryptCommands decryptStage
  split_ifs with h0 h10
  · obtain rfl : r = 0 := Fin.ext h0
    exact transforms_addrk 0
  · exact (((transforms_addrk r).append transforms_imixc).append transforms_ishrow).append transforms_isubb
  · obtain rfl : r = 10 := Fin.ext (by simp only [Config.rounds] at h10; omega)
    exact ((transforms_addrk 10).append transforms_ishrow).append transforms_isubb

theorem transforms_encryptByHand : Transforms t k encryptByHand (encryptBlock t k) :=
  encryptByHand_eq_flatMap ▸ transforms_flatMap transforms_encryptCommands rndSequence

theorem transforms_decryptByHand : Transforms t k decryptByHand (decryptBlock t k) :=
  decryptByHand_eq_flatMap ▸ transforms_flatMap transforms_decryptCommands rndSequence.reverse

/-- R192: `ENCB` on a block, with key and tables. -/
theorem exec_encb {s : State} (ht : s.tables = some t) (hk : s.rk = some k) (b : Block) :
    exec (.encb b.toBytes) s = .next (s.endCipher.respond (encryptBlock t k b).toBytes) := by
  simp [exec, execEncb, requireK_some hk, requireT_some ht]

/-- R194: `DECB` on a block, with key and tables. -/
theorem exec_decb {s : State} (ht : s.tables = some t) (hk : s.rk = some k) (b : Block) :
    exec (.decb b.toBytes) s = .next (s.endCipher.respond (decryptBlock t k b).toBytes) := by
  simp [exec, execDecb, requireK_some hk, requireT_some ht]

end

/-- Settles O49: the commands by hand, stage by stage, are the stages of the sequencer. -/
theorem primitiveCommandsComputeTheBlockCipher : Obligations.PrimitiveCommandsComputeTheBlockCipher :=
  fun s _ _ m ht hk hm =>
    ⟨⟨_, (transforms_encryptByHand m s ⟨ht, hk, hm⟩).matrix, exec_encb ht hk m⟩,
      ⟨_, (transforms_decryptByHand m s ⟨ht, hk, hm⟩).matrix, exec_decb ht hk m⟩⟩

end Sys2Proof.Machine
end

section
/-! The statements of spec/40_gf_algebra.md. The product is additive in both operands and agrees with `xtime` on the
powers of x; every byte is a sum of powers of x, so the field laws follow from those two facts. The inverse is the
tabulated one because its product with the byte is 1, and the 254th power because squaring is additive (R110, R114). -/

namespace Sys2Proof.Machine

/-! ### `xtime` -/

/-- A byte taken once for each of two bits that are set: twice is not at all. -/
theorem ite_xor_bits (f g : Bool) (m : Byte) :
    (if f ^^ g then m else 0) = (if f then m else 0) ^^^ (if g then m else 0) := by
  cases f <;> cases g <;> simp

/-- R112: `xtime` as a shift plus the reduction constant for the bit shifted out. -/
theorem xtime_eq (a : Byte) : xtime a = (a <<< 1) ^^^ (if a.getLsbD 7 then 0x1b else 0) := by
  unfold xtime
  split <;> simp

/-- R111, R112: `xtime` is additive. -/
theorem xtime_xor (a b : Byte) : xtime (a ^^^ b) = xtime a ^^^ xtime b := by
  rw [xtime_eq, xtime_eq, xtime_eq, BitVec.shiftLeft_xor_distrib, BitVec.getLsbD_xor, ite_xor_bits]
  ac_rfl

/-- The top bit of a byte is bit 7 of its number. -/
theorem getLsbD_seven (a : Byte) : a.getLsbD 7 = decide (128 ≤ a.toNat) := by
  simpa [BitVec.msb_eq_getLsbD_last] using BitVec.msb_eq_decide a

/-- R110: 2n XOR 0x11B for 128 ≤ n < 256 is the low byte of 2n XOR 0x1B: the two top bits cancel. -/
theorem double_xor_polynomial {n : Nat} (hlo : 128 ≤ n) (hhi : n < 256) :
    2 * n ^^^ 0x11b = 2 * n % 256 ^^^ 0x1b := by
  have hdiv : (2 * n ^^^ 0x11b) / 2 ^ 8 = 0 := by
    rw [Nat.xor_div_two_pow, show 2 * n / 2 ^ 8 = 1 by omega]
    rfl
  have hmod : (2 * n ^^^ 0x11b) % 2 ^ 8 = 2 * n % 256 ^^^ 0x1b := by
    rw [Nat.xor_mod_two_pow]
  omega

/-- Settles O27, by the top bit: without it the shift loses nothing, with it the polynomial is subtracted. -/
theorem xtimeDoublesModuloTheFieldPolynomial : Obligations.XtimeDoublesModuloTheFieldPolynomial := by
  refine ⟨fun a => ?_, xtime_xor⟩
  have hshift : (a <<< 1).toNat = 2 * a.toNat % 256 := by simp [Nat.shiftLeft_eq, Nat.mul_comm]
  unfold xtime
  by_cases h : a.toNat < 128
  · rw [getLsbD_seven, if_neg (by simpa using h), if_pos h, hshift]
    omega
  · rw [getLsbD_seven, if_pos (by simpa using h), if_neg h, BitVec.toNat_xor, hshift,
      double_xor_polynomial (Nat.not_lt.1 h) a.isLt]
    rfl

/-! ### The bytes are the sums of the powers of x -/

/-- What holds of the eight powers of x and is kept by sums holds of every byte: take its bits off from the top. -/
theorem byte_xor_induction {P : Byte → Prop} (hpow : ∀ i < 8, P (BitVec.twoPow 8 i))
    (hxor : ∀ a b, P a → P b → P (a ^^^ b)) (b : Byte) : P b := by
  suffices h : ∀ n ≤ 8, ∀ b : Byte, (∀ i, n ≤ i → b.getLsbD i = false) → P b from
    h 8 le_rfl b fun i hi => BitVec.getLsbD_of_ge b i hi
  intro n
  induction n with
  | zero =>
    intro _ b hb
    obtain rfl : b = BitVec.twoPow 8 0 ^^^ BitVec.twoPow 8 0 := by
      rw [BitVec.xor_self]
      exact BitVec.eq_of_getLsbD_eq fun i _ => by simpa using hb i (Nat.zero_le i)
    exact hxor _ _ (hpow 0 (by decide)) (hpow 0 (by decide))
  | succ n ih =>
    intro hn b hb
    cases hbit : b.getLsbD n with
    | false =>
      refine ih (by omega) b fun i hi => ?_
      obtain rfl | hlt := Nat.eq_or_lt_of_le hi
      · exact hbit
      · exact hb i hlt
    | true =>
      have hrest : P (b ^^^ BitVec.twoPow 8 n) := by
        refine ih (by omega) _ fun i hi => ?_
        obtain rfl | hlt := Nat.eq_or_lt_of_le hi
        · simp [hbit, Nat.lt_of_succ_le hn]
        · simp [hb i hlt, Nat.ne_of_lt hlt]
      have := hxor _ _ hrest (hpow n hn)
      rwa [BitVec.xor_assoc, BitVec.xor_self, BitVec.xor_zero] at this

/-- R112: `xtime` takes a power of x to the next one, up to x⁷. -/
theorem xtime_twoPow {i : Nat} (h : i < 7) : xtime (BitVec.twoPow 8 i) = BitVec.twoPow 8 (i + 1) := by
  interval_cases i <;> rfl

theorem twoPow_eq_iterate_xtime {i : Nat} (h : i < 8) : BitVec.twoPow 8 i = xtime^[i] 1 := by
  induction i with
  | zero => rfl
  | succ i ih => rw [Function.iterate_succ_apply', ← ih (by omega), xtime_twoPow (by omega)]

/-- What holds of 1, and is kept by `xtime` and by sums, holds of every byte. -/
theorem byte_field_induction {P : Byte → Prop} (hone : P 1) (hxtime : ∀ b, P b → P (xtime b))
    (hxor : ∀ a b, P a → P b → P (a ^^^ b)) (b : Byte) : P b := by
  refine byte_xor_induction (fun i hi => ?_) hxor b
  rw [twoPow_eq_iterate_xtime hi]
  exact Function.Iterate.rec P hone hxtime i

/-! ### The product -/

/-- R113: one turn of the loop adds `a` to the product so far for the bit `i` of `b`. -/
theorem gmulLoop_cons (b : Byte) (i : Nat) (is : List Nat) (a p : Byte) :
    gmulLoop b (i :: is) a p = gmulLoop b is (xtime a) (p ^^^ (if b.getLsbD i then a else 0)) := by
  rw [gmulLoop]
  split <;> simp

/-- R113: the loop of the product is additive in `b` and the product so far. -/
theorem gmulLoop_xor_right (b c : Byte) (is : List Nat) (a p q : Byte) :
    gmulLoop (b ^^^ c) is a (p ^^^ q) = gmulLoop b is a p ^^^ gmulLoop c is a q := by
  induction is generalizing a p q with
  | nil => rfl
  | cons i is ih =>
    rw [gmulLoop_cons, gmulLoop_cons, gmulLoop_cons, ← ih, BitVec.getLsbD_xor, ite_xor_bits]
    congr 1
    ac_rfl

/-- R113: the loop of the product is additive in `a` and the product so far. -/
theorem gmulLoop_xor_left (b : Byte) (is : List Nat) (a c p q : Byte) :
    gmulLoop b is (a ^^^ c) (p ^^^ q) = gmulLoop b is a p ^^^ gmulLoop b is c q := by
  induction is generalizing a c p q with
  | nil => rfl
  | cons i is ih =>
    have hturn : (if b.getLsbD i then a ^^^ c else 0) =
        (if b.getLsbD i then a else 0) ^^^ (if b.getLsbD i then c else 0) := by split <;> simp
    rw [gmulLoop_cons, gmulLoop_cons, gmulLoop_cons, ← ih, xtime_xor, hturn]
    congr 1
    ac_rfl

theorem gmul_xor_right (a b c : Byte) : gmul a (b ^^^ c) = gmul a b ^^^ gmul a c :=
  gmulLoop_xor_right b c _ a 0 0

theorem gmul_xor_left (a b c : Byte) : gmul (a ^^^ b) c = gmul a c ^^^ gmul b c :=
  gmulLoop_xor_left c _ a b 0 0

/-- R113: the product with a power of x is `xtime` repeated. -/
theorem gmul_twoPow (a : Byte) {i : Nat} (h : i < 8) : gmul a (BitVec.twoPow 8 i) = xtime^[i] a := by
  interval_cases i <;> simp [gmul, gmulLoop]

@[simp] theorem gmul_zero (a : Byte) : gmul a 0 = 0 := by
  simp [gmul, gmulLoop]

@[simp] theorem gmul_one (a : Byte) : gmul a 1 = a := gmul_twoPow a (i := 0) (by decide)

theorem gmul_two (a : Byte) : gmul a 2 = xtime a := gmul_twoPow a (i := 1) (by decide)

/-- R110: x⁸ = x⁴ + x³ + x + 1: eight doublings are the product with the reduction constant 0x1B. -/
theorem iterate_xtime_eight (a : Byte) : xtime^[8] a = gmul a 0x1b := by
  induction a using byte_xor_induction with
  | hpow i hi => interval_cases i <;> rfl
  | hxor a b ha hb =>
    rw [gmul_xor_left, ← ha, ← hb]
    simp only [Function.iterate_succ_apply', Function.iterate_zero_apply, xtime_xor]

/-- R112, R113: the product with `xtime b` is `xtime` of the product: as additive functions of `b` the two agree on the
powers of x, on x⁷ by the reduction. -/
theorem gmul_xtime_right (a b : Byte) : gmul a (xtime b) = xtime (gmul a b) := by
  induction b using byte_xor_induction with
  | hpow i hi =>
    rw [gmul_twoPow a hi, ← Function.iterate_succ_apply' xtime]
    obtain hlt | rfl : i < 7 ∨ i = 7 := by omega
    · rw [xtime_twoPow hlt, gmul_twoPow a (by omega)]
    · exact (iterate_xtime_eight a).symm
  | hxor b c hb hc => rw [xtime_xor, gmul_xor_right, gmul_xor_right, xtime_xor, hb, hc]

theorem gmul_xtime_left (a b : Byte) : gmul (xtime a) b = xtime (gmul a b) := by
  induction b using byte_field_induction with
  | hone => rw [gmul_one, gmul_one]
  | hxtime b ih => rw [gmul_xtime_right, gmul_xtime_right, ih]
  | hxor b c hb hc => rw [gmul_xor_right, gmul_xor_right, xtime_xor, hb, hc]

@[simp] theorem one_gmul (a : Byte) : gmul 1 a = a := by
  induction a using byte_field_induction with
  | hone => exact gmul_one 1
  | hxtime a ih => rw [gmul_xtime_right, ih]
  | hxor a b ha hb => rw [gmul_xor_right, ha, hb]

theorem gmul_comm (a b : Byte) : gmul a b = gmul b a := by
  induction b using byte_field_induction with
  | hone => rw [gmul_one, one_gmul]
  | hxtime b ih => rw [gmul_xtime_right, gmul_xtime_left, ih]
  | hxor b c hb hc => rw [gmul_xor_right, gmul_xor_left, hb, hc]

theorem gmul_assoc (a b c : Byte) : gmul (gmul a b) c = gmul a (gmul b c) := by
  induction c using byte_field_induction with
  | hone => rw [gmul_one, gmul_one]
  | hxtime c ih => rw [gmul_xtime_right, gmul_xtime_right, gmul_xtime_right, ih]
  | hxor c d hc hd => rw [gmul_xor_right, gmul_xor_right, gmul_xor_right, hc, hd]

theorem gmul_three (a : Byte) : gmul a 3 = xtime a ^^^ a := by
  rw [show (3 : Byte) = 2 ^^^ 1 from rfl, gmul_xor_right, gmul_two, gmul_one]

/-- Settles O28: each law by induction over the bytes as sums of powers of x. -/
theorem productObeysTheFieldLaws : Obligations.ProductObeysTheFieldLaws :=
  fun a b c => ⟨gmul_comm a b, gmul_assoc a b c, gmul_xor_right a b c,
    gmul_zero a, gmul_one a, gmul_two a, gmul_three a⟩

/-! ### The inverse -/

/-- R114, R120: every non-zero byte times its table entry is 1, checked entry by entry. -/
theorem gmul_inverse_self : ∀ x : Byte, x ≠ 0 → gmul x (inverse x) = 1 := by decide +kernel

/-- R114: an inverse is unique, because the product is associative and commutative. -/
theorem gmul_eq_one_iff {x : Byte} (hx : x ≠ 0) (y : Byte) : gmul x y = 1 ↔ y = inverse x := by
  constructor
  · intro hxy
    calc y = gmul (gmul x (inverse x)) y := by rw [gmul_inverse_self x hx, one_gmul]
      _ = gmul (gmul x y) (inverse x) := by rw [gmul_assoc, gmul_comm (inverse x), gmul_assoc]
      _ = inverse x := by rw [hxy, one_gmul]
  · rintro rfl
    exact gmul_inverse_self x hx

/-- Settles O29: the table's products, and the uniqueness of inverses. -/
theorem inverseIsTheFieldInverse : Obligations.InverseIsTheFieldInverse :=
  ⟨rfl, fun _ hx y => gmul_eq_one_iff hx y⟩

/-! ### Powers -/

@[simp] theorem gpow_zero (x : Byte) : gpow x 0 = 1 := rfl

theorem gpow_succ (x : Byte) (n : Nat) : gpow x (n + 1) = gmul (gpow x n) x := rfl

theorem gpow_add (x : Byte) (m n : Nat) : gpow x (m + n) = gmul (gpow x m) (gpow x n) := by
  induction n with
  | zero => rw [gpow_zero, gmul_one]; rfl
  | succ n ih => rw [← Nat.add_assoc, gpow_succ, gpow_succ, ih, gmul_assoc]

/-- The square in the field. -/
def gsquare (x : Byte) : Byte := gmul x x

/-- R111: a + a = 0, so the square of a sum is the sum of the squares. -/
theorem gsquare_xor (a b : Byte) : gsquare (a ^^^ b) = gsquare a ^^^ gsquare b := by
  unfold gsquare
  rw [gmul_xor_left, gmul_xor_right, gmul_xor_right, gmul_comm b a, BitVec.xor_assoc,
    ← BitVec.xor_assoc (gmul a b), BitVec.xor_self, BitVec.zero_xor]

theorem gpow_two_pow (x : Byte) (n : Nat) : gpow x (2 ^ n) = gsquare^[n] x := by
  induction n with
  | zero => exact one_gmul x
  | succ n ih => rw [Nat.pow_succ, Nat.mul_two, gpow_add, ih, Function.iterate_succ_apply', gsquare]

/-- Eight squarings give the powers of x back. -/
theorem iterate_gsquare_eight_twoPow : ∀ i < 8, gsquare^[8] (BitVec.twoPow 8 i) = BitVec.twoPow 8 i := by
  decide +kernel

/-- Eight squarings give every byte back, because squaring is additive. -/
theorem iterate_gsquare_eight (x : Byte) : gsquare^[8] x = x := by
  induction x using byte_xor_induction with
  | hpow i hi => exact iterate_gsquare_eight_twoPow i hi
  | hxor a b ha hb =>
    conv_rhs => rw [← ha, ← hb]
    simp only [Function.iterate_succ_apply', Function.iterate_zero_apply, gsquare_xor]

/-- R114: a non-zero byte's 255th power is 1, because its 256th power is the byte itself. -/
theorem gpow_255 {x : Byte} (hx : x ≠ 0) : gpow x 255 = 1 := by
  have h256 : gmul (gpow x 255) x = x := by
    rw [← gpow_succ, show 255 + 1 = 2 ^ 8 by norm_num, gpow_two_pow, iterate_gsquare_eight]
  calc gpow x 255 = gmul (gmul (gpow x 255) x) (inverse x) := by rw [gmul_assoc, gmul_inverse_self x hx, gmul_one]
    _ = 1 := by rw [h256, gmul_inverse_self x hx]

/-- Settles O30: the 254th power of a non-zero byte is an inverse of it, and there is but one. -/
theorem inverseIsThe254thPower : Obligations.InverseIsThe254thPower := by
  intro x
  by_cases hx : x = 0
  · subst hx
    exact (gmul_zero (gpow 0 253)).symm
  · refine ((gmul_eq_one_iff hx _).1 ?_).symm
    rw [gmul_comm, ← gpow_succ]
    exact gpow_255 hx

/-! ### The affine transform -/

/-- R8: bit `i` of the rotation by `n` is the bit `n` places below it, cyclically. -/
theorem getLsbD_rotl8 (x : Byte) {n i : Nat} (hn : n < 8) (hi : i < 8) :
    (rotl8 x n).getLsbD i = x.getLsbD ((i + (8 - n)) % 8) := by
  unfold rotl8
  rw [BitVec.getLsbD_or, BitVec.getLsbD_shiftLeft, BitVec.getLsbD_ushiftRight]
  by_cases h : i < n
  · rw [Nat.mod_eq_of_lt (by omega)]
    simp [h, Nat.add_comm]
  · rw [show (i + (8 - n)) % 8 = i - n by omega]
    simp [h, hi, BitVec.getLsbD_of_ge x (8 - n + i) (by omega)]

/-- Settles O31: the rotations by 1 to 4 bring the bits 7 to 4 places up. -/
theorem affineTransformBitByBit : Obligations.AffineTransformBitByBit := by
  intro x i hi
  unfold affineTransform
  simp only [BitVec.getLsbD_xor, BitVec.ofNat_eq_ofNat, Nat.reduceSub,
    getLsbD_rotl8 x (by decide : 1 < 8) hi, getLsbD_rotl8 x (by decide : 2 < 8) hi,
    getLsbD_rotl8 x (by decide : 3 < 8) hi, getLsbD_rotl8 x (by decide : 4 < 8) hi,
    Bool.xor_assoc, Bool.xor_comm, Bool.xor_left_comm]

/-! ### The commands -/

/-- R82: the packet of a command with one payload byte. -/
theorem encode_oneByte {i : Instr} {x : Byte} (h : i.payload = [x]) :
    encode i = [i.opcode, 0x00, 0x00, 0x01, x] := by
  rw [encode, Instr.len, h, List.length_singleton]
  rfl

/-- A command that is one function of one operand byte answers that function. -/
theorem exec_oneByte (f : Byte → Byte) (s : State) (x : Byte) :
    finish s (oneByte [x] >>= fun y => .ok (s, [f y])) = .next (s.respond [f x]) := rfl

/-- R86: with any other `LEN` it answers `InvalidOperand`. -/
theorem exec_oneByte_of_length (f : Byte → Byte) (s : State) {p : Bytes} (h : p.length ≠ 1) :
    finish s (oneByte p >>= fun y => .ok (s, [f y])) = .next (s.raise .invalidOperand) := by
  rw [oneByte_of_length h, answer_bind_error, finish_error]

/-- Settles O26: the three commands are one function each of the one operand byte. -/
theorem algebraCommandsAnswerTheirFunctions : Obligations.AlgebraCommandsAnswerTheirFunctions :=
  fun s => ⟨fun x => ⟨encode_oneByte rfl, exec_oneByte inverse s x⟩,
    fun x => ⟨encode_oneByte rfl, exec_oneByte affineTransform s x⟩,
    fun a => ⟨encode_oneByte rfl, exec_oneByte xtime s a⟩, fun _ hp => ⟨exec_oneByte_of_length inverse s hp,
      exec_oneByte_of_length affineTransform s hp, exec_oneByte_of_length xtime s hp⟩⟩

end Sys2Proof.Machine
end

section
/-! The statements of spec/41_sbox_builder.md. The inverse and the affine transform each give every byte back when they
are iterated, so the forward table is injective; the scatter loop of R131 over an injective table makes a left inverse
of it, which on the 256 bytes is a right inverse too (R131, R137). -/

namespace Sys2Proof.Machine

/-! ### The forward table is injective -/

/-- R114: the inverse of a non-zero byte is non-zero, because 0 is no factor of 1. -/
theorem inverse_ne_zero {x : Byte} (hx : x ≠ 0) : inverse x ≠ 0 := by
  intro h
  have hone := gmul_inverse_self x hx
  rw [h, gmul_zero] at hone
  exact absurd hone (by decide)

/-- R114: the inverse of the inverse is the byte, because the product is commutative and inverses are unique. -/
theorem inverse_involutive : Function.Involutive inverse := by
  intro x
  by_cases hx : x = 0
  · subst hx
    rfl
  · refine ((gmul_eq_one_iff (inverse_ne_zero hx) x).1 ?_).symm
    rw [gmul_comm]
    exact gmul_inverse_self x hx

/-- R115: with r for the rotation by 1, the linear part is 1 + r + r² + r³ + r⁴, whose fourth power is 1 because
r⁸ = 1; the constants cancel as well. Checked byte by byte. -/
theorem iterate_affineTransform_four : ∀ x : Byte, affineTransform^[4] x = x := by decide +kernel

theorem affineTransform_injective : Function.Injective affineTransform :=
  Function.LeftInverse.injective (g := affineTransform^[3]) iterate_affineTransform_four

/-- R131: `SBOX` is a composition of two injective functions. -/
theorem lookup_builtSbox_injective : Function.Injective (lookup builtSbox) := by
  rw [show lookup builtSbox = affineTransform ∘ inverse from funext (lookup_tabulate _)]
  exact affineTransform_injective.comp inverse_involutive.injective

/-! ### The scatter loop inverts an injective table -/

/-- R131: the second loop over the byte values in `xs`, from the array `inv`. -/
def scatterFrom (sbox : Vector Byte 256) (inv : Vector Byte 256) (xs : List Byte) : Vector Byte 256 :=
  xs.foldl (fun inv x => inv.set (lookup sbox x).toNat x (lookup sbox x).isLt) inv

theorem scatter_eq_scatterFrom (sbox : Vector Byte 256) :
    scatter sbox = scatterFrom sbox (Vector.replicate 256 0) byteValues := rfl

theorem scatterFrom_append_singleton (sbox inv : Vector Byte 256) (xs : List Byte) (y : Byte) :
    scatterFrom sbox inv (xs ++ [y]) =
      (scatterFrom sbox inv xs).set (lookup sbox y).toNat y (lookup sbox y).isLt := by
  simp [scatterFrom]

/-- R131: no later write of the loop meets an entry already written, so every value is found at its entry. -/
theorem lookup_scatterFrom {sbox : Vector Byte 256} (hinj : Function.Injective (lookup sbox)) (inv : Vector Byte 256)
    {xs : List Byte} {x : Byte} (hx : x ∈ xs) : lookup (scatterFrom sbox inv xs) (lookup sbox x) = x := by
  induction xs using List.reverseRecOn with
  | nil => cases hx
  | append_singleton xs y ih =>
    rw [scatterFrom_append_singleton]
    by_cases hxy : x = y
    · subst hxy
      exact lookup_set_self _ _ _
    · rw [lookup_set_ne _ _ (hinj.ne (Ne.symm hxy))]
      exact ih (by simpa [hxy] using hx)

theorem mem_byteValues (x : Byte) : x ∈ byteValues :=
  List.mem_map.2 ⟨x.toNat, List.mem_range.2 x.isLt, by simp⟩

/-- R131: the scattered table undoes an injective table. -/
theorem lookup_scatter {sbox : Vector Byte 256} (hinj : Function.Injective (lookup sbox)) (x : Byte) :
    lookup (scatter sbox) (lookup sbox x) = x := by
  rw [scatter_eq_scatterFrom]
  exact lookup_scatterFrom hinj _ (mem_byteValues x)

/-! ### The built tables -/

/-- R137 (a): `INV_SBOX` undoes `SBOX`. -/
theorem buildTables_invSub_sub (x : Byte) : buildTables.invSub (buildTables.sub x) = x := by
  simp only [Tables.invSub, Tables.sub, buildTables]
  exact lookup_scatter lookup_builtSbox_injective x

/-- R137 (a): `SBOX` undoes `INV_SBOX`, because an injective function on the finitely many bytes takes every value. -/
theorem buildTables_sub_invSub (x : Byte) : buildTables.sub (buildTables.invSub x) = x := by
  have : Finite Byte := Finite.of_injective BitVec.toFin fun _ _ => BitVec.eq_of_toFin_eq
  have hsub : Function.LeftInverse buildTables.invSub buildTables.sub := buildTables_invSub_sub
  have hsurj : Function.Surjective buildTables.sub := Finite.surjective_of_injective hsub.injective
  obtain ⟨y, rfl⟩ := hsurj x
  rw [buildTables_invSub_sub]

/-- R137 (b), by enumeration as there: no fixed point and no opposite fixed point. -/
theorem affineTransform_inverse_ne : ∀ x : Byte,
    affineTransform (inverse x) ≠ x ∧ affineTransform (inverse x) ≠ x ^^^ 0xff := by decide +kernel

/-- Settles O33: injectivity of the forward table gives both inverse orders, the fixed points are enumerated. -/
theorem builtTablesAreInversePermutations : Obligations.BuiltTablesAreInversePermutations := by
  intro x
  obtain ⟨hfix, hopposite⟩ := affineTransform_inverse_ne x
  exact ⟨buildTables_sub x, buildTables_invSub_sub x, buildTables_sub_invSub x,
    buildTables_sub x ▸ hfix, buildTables_sub x ▸ hopposite⟩

/-! ### `INIT` -/

/-- R132: `INIT` without operand, whatever `TV`. -/
theorem exec_init (s : State) :
    exec (.init []) s = .next ((if s.tv then s else s.setTables (some buildTables)).respond []) := rfl

/-- R132: with any other `LEN` it answers `InvalidOperand`. -/
theorem exec_init_of_length (s : State) {p : Bytes} (h : p.length ≠ 0) :
    exec (.init p) s = .next (s.raise .invalidOperand) := by
  show finish s (noOperand p >>= fun _ => _) = _
  rw [noOperand_of_length h, answer_bind_error, finish_error]

/-- Settles O32: the two values of `TV`, and the length check. -/
theorem initBuildsTheTablesOnce : Obligations.InitBuildsTheTablesOnce := by
  refine fun s => ⟨fun hnone => ?_, fun hsome => ?_, fun p hp => exec_init_of_length s hp⟩
  · have htv : s.tv = false := by rw [State.tv_eq, hnone]; rfl
    rw [exec_init, htv]
    rfl
  · have htv : s.tv = true := by rw [State.tv_eq, Option.isSome_iff_ne_none]; exact hsome
    rw [exec_init, if_pos htv]

/-! ### The look-up commands -/

/-- R135, R136: what `SBOX` and `ISBOX` do, for the look-up function `f` of the tables. -/
def lookupBody (f : Tables → Byte → Byte) (p : Bytes) (s : State) : Answer := do
  let x ← oneByte p
  let t ← requireT s
  .ok (s, [f t x])

theorem exec_sbox (p : Bytes) (s : State) : exec (.sbox p) s = finish s (lookupBody Tables.sub p s) := rfl

theorem exec_isbox (p : Bytes) (s : State) : exec (.isbox p) s = finish s (lookupBody Tables.invSub p s) := rfl

section
variable (f : Tables → Byte → Byte) {s : State}

theorem lookupBody_some {t : Tables} (ht : s.tables = some t) (x : Byte) : lookupBody f [x] s = .ok (s, [f t x]) := by
  rw [lookupBody, oneByte_singleton, answer_bind_ok, requireT_some ht, answer_bind_ok]

theorem lookupBody_none (ht : s.tables = none) (x : Byte) : lookupBody f [x] s = .error .notInitialised := by
  rw [lookupBody, oneByte_singleton, answer_bind_ok, requireT_none ht, answer_bind_error]

/-- R135: the length is checked before `TV`. -/
theorem lookupBody_of_length {p : Bytes} (h : p.length ≠ 1) : lookupBody f p s = .error .invalidOperand := by
  rw [lookupBody, oneByte_of_length h, answer_bind_error]

end

/-- Settles O34: both commands are the one look-up body, each with its table. -/
theorem lookupCommandsAnswerTheEntry : Obligations.LookupCommandsAnswerTheEntry := by
  refine fun s => ⟨fun x => ⟨encode_oneByte rfl, encode_oneByte rfl⟩, fun t x ht => ?_, fun x ht => ?_, fun p hp => ?_⟩
  · rw [exec_sbox, exec_isbox, lookupBody_some _ ht, lookupBody_some _ ht]
    exact ⟨rfl, rfl⟩
  · rw [exec_sbox, exec_isbox, lookupBody_none _ ht, lookupBody_none _ ht]
    exact ⟨rfl, rfl⟩
  · rw [exec_sbox, exec_isbox, lookupBody_of_length _ hp, lookupBody_of_length _ hp]
    exact ⟨rfl, rfl⟩

end Sys2Proof.Machine
end

section
/-! The statements of spec/42_block_transform.md. Each of the seven functions is said element by element; the two column
mixings are products with a matrix over the field, so that one is the inverse of the other because the product of the
two matrices is the identity. A transform command puts its function of the State Matrix in the matrix's place, so the
laws of the functions are laws of the commands (R145 to R151, R162). -/

namespace Sys2Proof.Machine

/-! ### The functions, element by element -/

@[simp] theorem get_substituteBytes (t : Tables) (b : Block) (r c : Fin 4) :
    (substituteBytes t b).get r c = t.sub (b.get r c) := Block.get_map ..

@[simp] theorem get_invSubstituteBytes (t : Tables) (b : Block) (r c : Fin 4) :
    (invSubstituteBytes t b).get r c = t.invSub (b.get r c) := Block.get_map ..

@[simp] theorem get_shiftRows (b : Block) (r c : Fin 4) : (shiftRows b).get r c = b.get r (c + r) :=
  Block.get_ofElements ..

@[simp] theorem get_invShiftRows (b : Block) (r c : Fin 4) : (invShiftRows b).get r c = b.get r (c - r) :=
  Block.get_ofElements ..

@[simp] theorem get_addRoundKey (b k : Block) (r c : Fin 4) : (addRoundKey b k).get r c = b.get r c ^^^ k.get r c :=
  Block.get_xor ..

theorem get_mapColumns (f : Column → Column) (b : Block) (r c : Fin 4) :
    (b.mapColumns f).get r c = (f (b.column c)).get r := by
  rw [Block.get, Block.column_mapColumns]

/-- R52: the bytes of a block lie column after column. -/
theorem getElem?_toBytes (b : Block) (r c : Fin 4) : b.toBytes[r.val + 4 * c.val]? = some (b.get r c) := by
  fin_cases r <;> fin_cases c <;> rfl

/-- Settles O41: a function of one element does not see where the element comes from. -/
theorem substitutionCommutesWithRotation : Obligations.SubstitutionCommutesWithRotation :=
  fun t b => ⟨Block.eq_of_get fun r c => by
      rw [get_substituteBytes, get_shiftRows, get_shiftRows, get_substituteBytes],
    Block.eq_of_get fun r c => by
      rw [get_invSubstituteBytes, get_invShiftRows, get_invShiftRows, get_invSubstituteBytes]⟩

/-! ### Matrices over the field -/

/-- R149: the product of a matrix with a column. -/
def matrixColumn (mat : Fin 4 → Fin 4 → Byte) (a : Column) : Column :=
  ⟨matrixRow mat a 0, matrixRow mat a 1, matrixRow mat a 2, matrixRow mat a 3⟩

theorem get_matrixColumn (mat : Fin 4 → Fin 4 → Byte) (a : Column) (r : Fin 4) :
    (matrixColumn mat a).get r = matrixRow mat a r := by
  fin_cases r <;> rfl

/-- The product of two matrices: the first one times the columns of the second. -/
def matrixProduct (mat mat' : Fin 4 → Fin 4 → Byte) (r j : Fin 4) : Byte :=
  matrixRow mat ⟨mat' 0 j, mat' 1 j, mat' 2 j, mat' 3 j⟩ r

/-- The matrix that leaves every column as it is. -/
def identityMatrix (r j : Fin 4) : Byte := if r = j then 1 else 0

theorem matrixRow_matrixColumn (mat mat' : Fin 4 → Fin 4 → Byte) (a : Column) (r : Fin 4) :
    matrixRow mat (matrixColumn mat' a) r = matrixRow (matrixProduct mat mat') a r := by
  simp only [matrixRow, matrixColumn, matrixProduct, gmul_xor_left, gmul_xor_right, gmul_assoc]
  ac_rfl

/-- The field laws make the matrices act on the columns. -/
theorem matrixColumn_matrixColumn (mat mat' : Fin 4 → Fin 4 → Byte) (a : Column) :
    matrixColumn mat (matrixColumn mat' a) = matrixColumn (matrixProduct mat mat') a := by
  unfold matrixColumn
  congr 1 <;> exact matrixRow_matrixColumn mat mat' a _

/-- The product with 0 and with 1, with the numeral written as `simp` leaves it. -/
@[simp] theorem zero_gmul (a : Byte) : gmul 0#8 a = 0#8 := (gmul_comm 0 a).trans (gmul_zero a)

@[simp] theorem one_gmul_numeral (a : Byte) : gmul 1#8 a = a := one_gmul a

theorem matrixColumn_identityMatrix (a : Column) : matrixColumn identityMatrix a = a := by
  simp [matrixColumn, matrixRow, identityMatrix]

/-- A matrix undoes another on every column, when their product is the identity. -/
theorem matrixColumn_leftInverse {mat mat' : Fin 4 → Fin 4 → Byte} (h : matrixProduct mat mat' = identityMatrix) :
    Function.LeftInverse (matrixColumn mat) (matrixColumn mat') := by
  intro a
  rw [matrixColumn_matrixColumn, h, matrixColumn_identityMatrix]

/-! ### Column mixing -/

/-- R149: one byte of the `xtime` form, where `t` is the sum of the column; the byte itself is in `t` and cancels. -/
theorem mixByte_eq {a b c d t : Byte} (ht : t = a ^^^ (b ^^^ c ^^^ d)) :
    a ^^^ t ^^^ xtime (a ^^^ b) = gmul 2 a ^^^ gmul 3 b ^^^ gmul 1 c ^^^ gmul 1 d := by
  rw [ht, ← BitVec.xor_assoc, BitVec.xor_self, BitVec.zero_xor, xtime_xor, gmul_comm 2, gmul_two, gmul_comm 3,
    gmul_three, one_gmul, one_gmul]
  ac_rfl

/-- R149: the `xtime` form is the matrix form; every row is the first one for the column turned by that row. -/
theorem mixColumn_eq (a : Column) : mixColumn a = matrixColumn mixMatrix a := by
  obtain ⟨a0, a1, a2, a3⟩ := a
  ext1
  · exact mixByte_eq (show a0 ^^^ a1 ^^^ a2 ^^^ a3 = a0 ^^^ (a1 ^^^ a2 ^^^ a3) by ac_rfl)
  · exact (mixByte_eq (show a0 ^^^ a1 ^^^ a2 ^^^ a3 = a1 ^^^ (a2 ^^^ a3 ^^^ a0) by ac_rfl)).trans
      (show _ = gmul 1 a0 ^^^ gmul 2 a1 ^^^ gmul 3 a2 ^^^ gmul 1 a3 by ac_rfl)
  · exact (mixByte_eq (show a0 ^^^ a1 ^^^ a2 ^^^ a3 = a2 ^^^ (a3 ^^^ a0 ^^^ a1) by ac_rfl)).trans
      (show _ = gmul 1 a0 ^^^ gmul 1 a1 ^^^ gmul 2 a2 ^^^ gmul 3 a3 by ac_rfl)
  · exact (mixByte_eq (show a0 ^^^ a1 ^^^ a2 ^^^ a3 = a3 ^^^ (a0 ^^^ a1 ^^^ a2) by ac_rfl)).trans
      (show _ = gmul 3 a0 ^^^ gmul 1 a1 ^^^ gmul 1 a2 ^^^ gmul 2 a3 by ac_rfl)

/-- R150: what the `xtime` form of the inverse does to a column before it mixes it, as a matrix. -/
def premixMatrix (r j : Fin 4) : Byte := if r = j then 5 else if r = j + 2 then 4 else 0

/-- R150: one byte before the mixing, where `a` is its own byte and `b` the one two rows away. -/
theorem premixByte_eq (a b : Byte) : a ^^^ xtime (xtime (a ^^^ b)) = gmul 5 a ^^^ gmul 4 b := by
  have hfour : (4 : Byte) = xtime (xtime 1) := rfl
  rw [show (5 : Byte) = 4 ^^^ 1 from rfl, gmul_xor_left, hfour]
  simp only [gmul_xtime_left, one_gmul, xtime_xor]
  ac_rfl

/-- R150: the column that is mixed is a matrix times the column. -/
theorem premix_eq (a0 a1 a2 a3 : Byte) :
    ⟨a0 ^^^ xtime (xtime (a0 ^^^ a2)), a1 ^^^ xtime (xtime (a1 ^^^ a3)), a2 ^^^ xtime (xtime (a0 ^^^ a2)),
      a3 ^^^ xtime (xtime (a1 ^^^ a3))⟩ = matrixColumn premixMatrix ⟨a0, a1, a2, a3⟩ := by
  rw [premixByte_eq a0 a2, premixByte_eq a1 a3, BitVec.xor_comm a0 a2, premixByte_eq a2 a0, BitVec.xor_comm a1 a3,
    premixByte_eq a3 a1]
  simp [matrixColumn, matrixRow, premixMatrix, BitVec.xor_comm]

/-- R150: the inverse matrix is the mixing matrix after that first part. -/
theorem matrixProduct_mixMatrix_premixMatrix : matrixProduct mixMatrix premixMatrix = invMixMatrix :=
  funext₂ (by decide)

/-- R150: the `xtime` form is the matrix form. -/
theorem invMixColumn_eq (a : Column) : invMixColumn a = matrixColumn invMixMatrix a :=
  calc invMixColumn a
    _ = mixColumn (matrixColumn premixMatrix a) := congrArg mixColumn (premix_eq a.b0 a.b1 a.b2 a.b3)
    _ = matrixColumn mixMatrix (matrixColumn premixMatrix a) := mixColumn_eq _
    _ = matrixColumn (matrixProduct mixMatrix premixMatrix) a := matrixColumn_matrixColumn ..
    _ = matrixColumn invMixMatrix a := by rw [matrixProduct_mixMatrix_premixMatrix]

theorem get_mixColumns (b : Block) (r c : Fin 4) : (mixColumns b).get r c = matrixRow mixMatrix (b.column c) r := by
  rw [mixColumns, get_mapColumns, mixColumn_eq, get_matrixColumn]

theorem get_invMixColumns (b : Block) (r c : Fin 4) :
    (invMixColumns b).get r c = matrixRow invMixMatrix (b.column c) r := by
  rw [invMixColumns, get_mapColumns, invMixColumn_eq, get_matrixColumn]

/-- R150: the two matrices are inverse to each other. -/
theorem matrixProduct_invMixMatrix_mixMatrix : matrixProduct invMixMatrix mixMatrix = identityMatrix :=
  funext₂ (by decide)

theorem matrixProduct_mixMatrix_invMixMatrix : matrixProduct mixMatrix invMixMatrix = identityMatrix :=
  funext₂ (by decide)

/-! ### Each function undoes its inverse -/

/-- A column function that another one undoes on every column is undone on the block. -/
theorem mapColumns_leftInverse {f g : Column → Column} (h : Function.LeftInverse g f) :
    Function.LeftInverse (Block.mapColumns g) (Block.mapColumns f) :=
  fun b => Block.ext (h b.c0) (h b.c1) (h b.c2) (h b.c3)

theorem invSubstituteBytes_leftInverse :
    Function.LeftInverse (invSubstituteBytes buildTables) (substituteBytes buildTables) :=
  fun b => Block.eq_of_get fun r c => by
    rw [get_invSubstituteBytes, get_substituteBytes, buildTables_invSub_sub]

theorem substituteBytes_leftInverse :
    Function.LeftInverse (substituteBytes buildTables) (invSubstituteBytes buildTables) :=
  fun b => Block.eq_of_get fun r c => by
    rw [get_substituteBytes, get_invSubstituteBytes, buildTables_sub_invSub]

theorem invShiftRows_leftInverse : Function.LeftInverse invShiftRows shiftRows :=
  fun b => Block.eq_of_get fun r c => by rw [get_invShiftRows, get_shiftRows, sub_add_cancel]

theorem shiftRows_leftInverse : Function.LeftInverse shiftRows invShiftRows :=
  fun b => Block.eq_of_get fun r c => by rw [get_shiftRows, get_invShiftRows, add_sub_cancel_right]

theorem invMixColumns_leftInverse : Function.LeftInverse invMixColumns mixColumns := by
  refine mapColumns_leftInverse fun a => ?_
  rw [mixColumn_eq, invMixColumn_eq]
  exact matrixColumn_leftInverse matrixProduct_invMixMatrix_mixMatrix a

theorem mixColumns_leftInverse : Function.LeftInverse mixColumns invMixColumns := by
  refine mapColumns_leftInverse fun a => ?_
  rw [mixColumn_eq, invMixColumn_eq]
  exact matrixColumn_leftInverse matrixProduct_mixMatrix_invMixMatrix a

theorem addRoundKey_involutive (k : Block) : Function.Involutive (addRoundKey · k) :=
  fun b => Block.eq_of_get fun r c => by
    rw [get_addRoundKey, get_addRoundKey, BitVec.xor_assoc, BitVec.xor_self, BitVec.xor_zero]

/-! ### The commands -/

/-- In every state with the tables and the round keys of `s`, the command `i` answers `OK` and changes only the State
Matrix, from `m` to `f m`. -/
def Acts (s : State) (i : Instr) (f : Block → Block) : Prop :=
  ∀ u m, u.tables = s.tables → u.rk = s.rk → u.matrix = some m →
    exec i u = .next ((u.setMatrix (some (f m))).respond [])

section
variable {s : State} {m : Block}

/-- A command without operand that needs the State Matrix alone. -/
theorem finish_matrix (hm : s.matrix = some m) (f : Block → Block) :
    finish s (noOperand [] >>= fun _ => requireS s >>= fun x => .ok (s.setMatrix (some (f x)), [])) =
      .next ((s.setMatrix (some (f m))).respond []) := by
  rw [noOperand_nil, answer_bind_ok, requireS_some hm, answer_bind_ok, finish_ok]

theorem acts_shrow : Acts s (.shrow []) shiftRows := fun _ _ _ _ hm => finish_matrix hm shiftRows

theorem acts_ishrow : Acts s (.ishrow []) invShiftRows := fun _ _ _ _ hm => finish_matrix hm invShiftRows

theorem acts_mixc : Acts s (.mixc []) mixColumns := fun _ _ _ _ hm => finish_matrix hm mixColumns

theorem acts_imixc : Acts s (.imixc []) invMixColumns := fun _ _ _ _ hm => finish_matrix hm invMixColumns

/-- A command without operand that needs the tables and the State Matrix. -/
theorem finish_tables_matrix {t : Tables} (ht : s.tables = some t) (hm : s.matrix = some m)
    (f : Tables → Block → Block) :
    finish s (noOperand [] >>= fun _ => requireT s >>= fun y => requireS s >>= fun x =>
      .ok (s.setMatrix (some (f y x)), [])) = .next ((s.setMatrix (some (f t m))).respond []) := by
  rw [noOperand_nil, answer_bind_ok, requireT_some ht, answer_bind_ok, requireS_some hm, answer_bind_ok, finish_ok]

theorem acts_subb {t : Tables} (ht : s.tables = some t) : Acts s (.subb []) (substituteBytes t) :=
  fun _ _ hu _ hm => finish_tables_matrix (hu.trans ht) hm substituteBytes

theorem acts_isubb {t : Tables} (ht : s.tables = some t) : Acts s (.isubb []) (invSubstituteBytes t) :=
  fun _ _ hu _ hm => finish_tables_matrix (hu.trans ht) hm invSubstituteBytes

theorem acts_addrk {k : RoundKeys} (hk : s.rk = some k) {x : Byte} (hx : x.toNat < 11) :
    Acts s (.addrk [x]) (addRoundKey · (k.get ⟨x.toNat, hx⟩)) := by
  intro u m _ hu hm
  show finish u (roundKeyIndex [x] >>= fun _ => _) = _
  rw [roundKeyIndex_of_lt hx, answer_bind_ok, requireK_some (hu.trans hk), answer_bind_ok, requireS_some hm,
    answer_bind_ok, finish_ok]

/-- R160: the index is checked before the state is looked at. -/
theorem exec_addrk_of_index {p : Bytes} (h : roundKeyIndex p = .error .invalidOperand) (s : State) :
    exec (.addrk p) s = .next (s.raise .invalidOperand) := by
  show finish s (roundKeyIndex p >>= fun _ => _) = _
  rw [h, answer_bind_error, finish_error]

theorem exec_addrk_of_noKey {x : Byte} (hx : x.toNat < 11) (hk : s.rk = none) :
    exec (.addrk [x]) s = .next (s.raise .noKey) := by
  show finish s (roundKeyIndex [x] >>= fun _ => _) = _
  rw [roundKeyIndex_of_lt hx, answer_bind_ok, requireK_none hk, answer_bind_error, finish_error]

/-- R162: a command, then one that undoes what it did. -/
theorem Acts.runCommands_pair {i j : Instr} {f g : Block → Block} (hi : Acts s i f) (hj : Acts s j g)
    (h : Function.LeftInverse g f) (hm : s.matrix = some m) : (runCommands [i, j] s).matrix = some m := by
  rw [runCommands_cons (hi s m rfl rfl hm),
    runCommands_cons (hj ((s.setMatrix (some (f m))).respond []) (f m) rfl rfl rfl)]
  exact congrArg some (h m)

/-- R245: a command that fails in the same way twice. -/
theorem runCommands_raise_twice {i : Instr} {e : ErrorKind} (h : exec i s = .next (s.raise e))
    (h' : exec i (s.raise e) = .next ((s.raise e).raise e)) : (runCommands [i, i] s).matrix = s.matrix := by
  rw [runCommands_cons h, runCommands_cons h']
  rfl

/-- R162: `ADDRK` twice, whether it completes, has a wrong index or finds no key. -/
theorem runCommands_addrk_twice (hm : s.matrix = some m) (x : Byte) :
    (runCommands [.addrk [x], .addrk [x]] s).matrix = some m := by
  by_cases hx : x.toNat < 11
  · cases hk : s.rk with
    | some k => exact (acts_addrk hk hx).runCommands_pair (acts_addrk hk hx) (addRoundKey_involutive _) hm
    | none => exact (runCommands_raise_twice (exec_addrk_of_noKey hx hk) (exec_addrk_of_noKey hx hk)).trans hm
  · have hindex := roundKeyIndex_of_ge (Nat.not_lt.1 hx)
    exact (runCommands_raise_twice (exec_addrk_of_index hindex s) (exec_addrk_of_index hindex _)).trans hm

end

/-- Settles O38: the columns of the new State Matrix are the products with the two matrices. -/
theorem mixcAndImixcMultiplyByTheMatrices : Obligations.MixcAndImixcMultiplyByTheMatrices :=
  fun s m hm => ⟨⟨_, acts_mixc s m rfl rfl hm, get_mixColumns m⟩, ⟨_, acts_imixc s m rfl rfl hm, get_invMixColumns m⟩⟩

/-- Settles O40: by the invariant the tables are those that `buildTables` makes, which are inverse to each other; the
other pairs undo each other in every state. -/
theorem inverseCommandPairsRestoreTheMatrix : Obligations.InverseCommandPairsRestoreTheMatrix := by
  refine fun s m hinv hm => ⟨fun htv => ?_, acts_shrow.runCommands_pair acts_ishrow invShiftRows_leftInverse hm,
    acts_ishrow.runCommands_pair acts_shrow shiftRows_leftInverse hm,
    acts_mixc.runCommands_pair acts_imixc invMixColumns_leftInverse hm,
    acts_imixc.runCommands_pair acts_mixc mixColumns_leftInverse hm, runCommands_addrk_twice hm⟩
  obtain ⟨t, ht⟩ := Option.isSome_iff_exists.1 htv
  obtain rfl := hinv.tablesBuilt t ht
  exact ⟨(acts_subb ht).runCommands_pair (acts_isubb ht) invSubstituteBytes_leftInverse hm,
    (acts_isubb ht).runCommands_pair (acts_subb ht) substituteBytes_leftInverse hm⟩

/-- Settles O36: both substitutions act element by element. -/
theorem subbAndIsubbReplaceEachElement : Obligations.SubbAndIsubbReplaceEachElement :=
  fun s t m ht hm => ⟨⟨_, acts_subb ht s m rfl rfl hm, get_substituteBytes t m⟩,
    ⟨_, acts_isubb ht s m rfl rfl hm, get_invSubstituteBytes t m⟩⟩

/-- Settles O37: both rotations move elements. -/
theorem shrowAndIshrowRotateTheRows : Obligations.ShrowAndIshrowRotateTheRows :=
  fun s m hm => ⟨⟨_, acts_shrow s m rfl rfl hm, get_shiftRows m⟩, ⟨_, acts_ishrow s m rfl rfl hm, get_invShiftRows m⟩⟩

/-- Settles O39: the command with a legal index, and the two ways the operand is refused. -/
theorem addrkXorsTheRoundKey : Obligations.AddrkXorsTheRoundKey :=
  fun s => ⟨fun _ m _ hx hk hm => ⟨_, acts_addrk hk hx s m rfl rfl hm, get_addRoundKey m _⟩,
    fun _ hx => exec_addrk_of_index (roundKeyIndex_of_ge hx) s,
    fun _ hp => exec_addrk_of_index (roundKeyIndex_of_length hp) s⟩

/-! ### Loading and reading the State Matrix -/

/-- R82: the packet of `LDST` with a block. -/
theorem encode_ldst {p : Bytes} (h : p.length = 16) : encode (.ldst p) = [0x30, 0x00, 0x00, 0x10] ++ p := by
  show headerBytes 0x30 p.length ++ p = _
  rw [h]
  rfl

theorem exec_ldst (b : Block) (s : State) :
    exec (.ldst b.toBytes) s = .next ((s.setMatrix (some b)).respond []) := rfl

theorem exec_ldst_of_length {p : Bytes} (h : p.length ≠ 16) (s : State) :
    exec (.ldst p) s = .next (s.raise .invalidBlockSize) := by
  show finish s (blockOperand .invalidBlockSize p >>= fun _ => _) = _
  rw [blockOperand_of_length _ h, answer_bind_error, finish_error]

theorem exec_rdst {s : State} {m : Block} (h : s.matrix = some m) :
    exec (.rdst []) s = .next (s.respond m.toBytes) := by
  show finish s (noOperand [] >>= fun _ => requireS s >>= fun _ => _) = _
  rw [noOperand_nil, answer_bind_ok, requireS_some h, answer_bind_ok, finish_ok]

theorem exec_rdst_of_noState {s : State} (h : s.matrix = none) :
    exec (.rdst []) s = .next (s.raise .noState) := by
  show finish s (noOperand [] >>= fun _ => requireS s >>= fun _ => _) = _
  rw [noOperand_nil, answer_bind_ok, requireS_none h, answer_bind_error, finish_error]

theorem exec_rdst_of_length {p : Bytes} (h : p.length ≠ 0) (s : State) :
    exec (.rdst p) s = .next (s.raise .invalidOperand) := by
  show finish s (noOperand p >>= fun _ => _) = _
  rw [noOperand_of_length h, answer_bind_error, finish_error]

/-- Settles O35: 16 bytes are the bytes of one block, which `LDST` loads and `RDST` answers. -/
theorem ldstThenRdstKeepsTheBlock : Obligations.LdstThenRdstKeepsTheBlock := by
  refine fun s p => ⟨encode_ldst, rfl, fun hp => ?_, (exec_ldst_of_length · s), exec_rdst_of_noState,
    (exec_rdst_of_length · s)⟩
  obtain ⟨m, rfl⟩ := Block.exists_toBytes hp
  exact ⟨m, exec_ldst m s, getElem?_toBytes m, fun _ => exec_rdst⟩

end Sys2Proof.Machine
end

section
/-! The statements of spec/43_key_schedule.md. Every fourth column of the schedule opens a round key, so the columns in
groups of four are the round keys that `nextRoundKey` makes one after another from the key (R177, R181); the commands
load them, answer one of them and take them away (R178 to R180). -/

namespace Sys2Proof.Machine

/-! ### The round constants -/

/-- R176: from one entry of the table to the next; `RCON[9]` is the one that the reduction of `xtime` enters. -/
theorem rcon_succ {j : Nat} (hlo : 1 ≤ j) (hhi : j < 10) : rcon (j + 1) = xtime (rcon j) := by
  interval_cases j <;> rfl

/-- Settles O42: the first entry, and the doubling of each of the other entries. -/
theorem roundConstantsDouble : Obligations.RoundConstantsDouble :=
  ⟨rfl, fun _ hlo hhi => rcon_succ hlo hhi⟩

/-! ### The schedule, one round key after another -/

/-- R177 (b): a column that opens a round key gets the rotation, the substitution and the round constant. -/
theorem nextColumn_opening (t : Tables) (j : Nat) (w : Block) :
    nextColumn t (4 * j) w = w.c0.xor (scheduleCore t j w.c3) := by
  rw [nextColumn, if_pos (Nat.mul_mod_right 4 j), Nat.mul_div_cancel_left j (by decide)]

/-- R177 (a), (c): the three columns after it get the column before them and the one 4 positions earlier. -/
theorem nextColumn_inner (t : Tables) {i : Nat} (h : i % 4 ≠ 0) (w : Block) : nextColumn t i w = w.c0.xor w.c3 := by
  rw [nextColumn, if_neg h]

/-- R181: four columns on from a round key stands the next round key. -/
theorem regroup_columnsFrom_succ (t : Tables) (n j : Nat) (w : Block) :
    regroup (columnsFrom t (4 * (n + 1)) (4 * j) w) =
      nextRoundKey t (rcon j) w :: regroup (columnsFrom t (4 * n) (4 * (j + 1)) (nextRoundKey t (rcon j) w)) := by
  show regroup (columnsFrom t (4 * n + 1 + 1 + 1 + 1) (4 * j) w) = _
  simp only [columnsFrom, regroup, nextColumn_opening,
    nextColumn_inner t (show (4 * j + 1) % 4 ≠ 0 by omega),
    nextColumn_inner t (show (4 * j + 1 + 1) % 4 ≠ 0 by omega),
    nextColumn_inner t (show (4 * j + 1 + 1 + 1) % 4 ≠ 0 by omega)]
  rfl

/-- R181: round key `r` by the recurrence, `RK[0]` the key. -/
def roundKey (t : Tables) (key : Block) : Nat → Block
  | 0 => key
  | r + 1 => nextRoundKey t (rcon (r + 1)) (roundKey t key r)

/-- R181: the columns derived from round key `j` are those of the round keys after it, by induction on their number. -/
theorem regroup_columnsFrom (t : Tables) (key : Block) (n j : Nat) :
    regroup (columnsFrom t (4 * n) (4 * (j + 1)) (roundKey t key j)) =
      (List.range' (j + 1) n).map (roundKey t key) := by
  induction n generalizing j with
  | zero => rfl
  | succ n ih =>
    rw [regroup_columnsFrom_succ, List.range'_succ, List.map_cons, ← ih (j + 1)]
    rfl

/-- R177, R181: the 44 columns in groups of four are the 11 round keys of the recurrence. -/
theorem regroup_scheduleColumns (t : Tables) (key : Block) :
    regroup (scheduleColumns t key) = (List.range 11).map (roundKey t key) := by
  rw [List.range_eq_range', List.range'_succ, List.map_cons, ← regroup_columnsFrom]
  rfl

theorem expandKey_get (t : Tables) (key : Block) (r : Fin 11) : (expandKey t key).get r = roundKey t key r := by
  show (regroup (scheduleColumns t key))[r.val]'(r.isLt.trans_eq (regroup_scheduleColumns_length t key).symm) = _
  simp [regroup_scheduleColumns]

/-- R181: each round key follows from the one before it and its round constant. -/
theorem expandKey_get_succ (t : Tables) (key : Block) (r : Fin 10) :
    (expandKey t key).get r.succ = nextRoundKey t (rcon (r.val + 1)) ((expandKey t key).get r.castSucc) := by
  rw [expandKey_get, expandKey_get]
  rfl

/-! ### `LOADKEY` -/

/-- R178: `LOADKEY` of a key, with tables. -/
theorem exec_loadkey {s : State} {t : Tables} (ht : s.tables = some t) (key : Block) :
    exec (.loadkey key.toBytes) s = .next ((s.setRk (some (expandKey t key))).respond []) := by
  show finish s (blockOperand .invalidKeySize key.toBytes >>= fun _ => requireT s >>= fun _ => _) = _
  rw [blockOperand_toBytes, answer_bind_ok, requireT_some ht, answer_bind_ok, finish_ok]

theorem exec_loadkey_of_notInitialised {s : State} (ht : s.tables = none) (key : Block) :
    exec (.loadkey key.toBytes) s = .next (s.raise .notInitialised) := by
  show finish s (blockOperand .invalidKeySize key.toBytes >>= fun _ => requireT s >>= fun _ => _) = _
  rw [blockOperand_toBytes, answer_bind_ok, requireT_none ht, answer_bind_error, finish_error]

/-- R178, R244: the key size is checked before `TV`. -/
theorem exec_loadkey_of_length {p : Bytes} (h : p.length ≠ 16) (s : State) :
    exec (.loadkey p) s = .next (s.raise .invalidKeySize) := by
  show finish s (blockOperand .invalidKeySize p >>= fun _ => _) = _
  rw [blockOperand_of_length _ h, answer_bind_error, finish_error]

/-- Settles O43: 16 bytes are the bytes of one key, which opens its schedule; the rest is the recurrence. -/
theorem loadkeyBuildsTheSchedule : Obligations.LoadkeyBuildsTheSchedule := by
  refine fun s p => ⟨fun t hp ht => ?_, fun hp ht => ?_, (exec_loadkey_of_length · s)⟩
  · obtain ⟨key, rfl⟩ := Block.exists_toBytes hp
    exact ⟨expandKey t key, exec_loadkey ht key, congrArg Block.toBytes (expandKey_get_zero t key),
      expandKey_get_succ t key⟩
  · obtain ⟨key, rfl⟩ := Block.exists_toBytes hp
    exact exec_loadkey_of_notInitialised ht key

/-! ### `RDRK` -/

/-- R180: `RDRK` of an index from 0 to 10, with round keys. -/
theorem exec_rdrk {s : State} {k : RoundKeys} (hk : s.rk = some k) {x : Byte} (hx : x.toNat < 11) :
    exec (.rdrk [x]) s = .next (s.respond (k.get ⟨x.toNat, hx⟩).toBytes) := by
  show finish s (roundKeyIndex [x] >>= fun _ => requireK s >>= fun _ => _) = _
  rw [roundKeyIndex_of_lt hx, answer_bind_ok, requireK_some hk, answer_bind_ok, finish_ok]

theorem exec_rdrk_of_noKey {s : State} (hk : s.rk = none) {x : Byte} (hx : x.toNat < 11) :
    exec (.rdrk [x]) s = .next (s.raise .noKey) := by
  show finish s (roundKeyIndex [x] >>= fun _ => requireK s >>= fun _ => _) = _
  rw [roundKeyIndex_of_lt hx, answer_bind_ok, requireK_none hk, answer_bind_error, finish_error]

/-- R180, R244: the operand is checked before `KV`. -/
theorem exec_rdrk_of_index {p : Bytes} (h : roundKeyIndex p = .error .invalidOperand) (s : State) :
    exec (.rdrk p) s = .next (s.raise .invalidOperand) := by
  show finish s (roundKeyIndex p >>= fun _ => _) = _
  rw [h, answer_bind_error, finish_error]

/-- Settles O44: the packet, the command with and without a key, and the two ways the operand is refused. -/
theorem rdrkAnswersTheRoundKey : Obligations.RdrkAnswersTheRoundKey :=
  fun s => ⟨fun _ => encode_oneByte rfl, fun _ _ hx hk => exec_rdrk hk hx, fun _ hx hk => exec_rdrk_of_noKey hk hx,
    fun _ hx => exec_rdrk_of_index (roundKeyIndex_of_ge hx) s,
    fun _ hp => exec_rdrk_of_index (roundKeyIndex_of_length hp) s⟩

/-! ### `CLRKEY` -/

/-- R179: `CLRKEY` without operand, whatever is loaded. -/
theorem exec_clrkey (s : State) :
    exec (.clrkey []) s = .next ((((s.setRk none).setCtr none).setMatrix none).respond []) := rfl

theorem exec_clrkey_of_length {p : Bytes} (h : p.length ≠ 0) (s : State) :
    exec (.clrkey p) s = .next (s.raise .invalidOperand) := by
  show finish s (noOperand p >>= fun _ => _) = _
  rw [noOperand_of_length h, answer_bind_error, finish_error]

/-- Settles O45: the one state `CLRKEY` leaves has the three flags at 0. -/
theorem clrkeyDisposesOfKeyCounterAndMatrix : Obligations.ClrkeyDisposesOfKeyCounterAndMatrix := by
  refine fun s => ⟨rfl, exec_clrkey s, fun t he => ?_, fun _ hp => exec_clrkey_of_length hp s⟩
  cases (exec_clrkey s).symm.trans he
  exact ⟨rfl, rfl, rfl⟩

end Sys2Proof.Machine
end

section
/-! The statements of spec/44_block_cipher.md. A stage of the decryption and the encryption stage of the same round key
undo each other, because their steps do (R162); so the stages in turn and the mirrored stages in the opposite order undo
each other (R195). `ENCB` and `DECB` differ in the block function only. -/

namespace Sys2Proof.Machine

/-! ### The stages of the sequencer -/

section
variable (t : Tables) (k : RoundKeys) (b : Block)

/-- R191, Initial. -/
theorem encryptStage_zero : encryptStage t k b 0 = addRoundKey b (k.get 0) := rfl

/-- R191, Final. -/
theorem encryptStage_ten :
    encryptStage t k b 10 = addRoundKey (shiftRows (substituteBytes t b)) (k.get 10) := rfl

/-- R193, undo Initial. -/
theorem decryptStage_zero : decryptStage t k b 0 = addRoundKey b (k.get 0) := rfl

/-- R193, undo Final. -/
theorem decryptStage_ten :
    decryptStage t k b 10 = invSubstituteBytes t (invShiftRows (addRoundKey b (k.get 10))) := rfl

/-- R31: before its last value `RND` is below the number of rounds. -/
theorem val_lt_rounds {r : Fin 11} (h10 : r ≠ 10) : r.val < Config.rounds :=
  Nat.lt_of_le_of_ne (Nat.le_of_lt_succ r.isLt) (Fin.val_ne_of_ne h10)

/-- R191, `Round[r]`. -/
theorem encryptStage_round {r : Fin 11} (h0 : r ≠ 0) (h10 : r ≠ 10) :
    encryptStage t k b r = addRoundKey (mixColumns (shiftRows (substituteBytes t b))) (k.get r) := by
  rw [encryptStage, if_neg (mt Fin.val_eq_zero_iff.1 h0), if_pos (val_lt_rounds h10)]

/-- R193, undo `Round[r]`. -/
theorem decryptStage_round {r : Fin 11} (h0 : r ≠ 0) (h10 : r ≠ 10) :
    decryptStage t k b r = invSubstituteBytes t (invShiftRows (invMixColumns (addRoundKey b (k.get r)))) := by
  rw [decryptStage, if_neg (mt Fin.val_eq_zero_iff.1 h0), if_pos (val_lt_rounds h10)]

/-- A first stage, middle stages that all do what `g` does, and a last stage. -/
theorem foldl_first_middle_last {f g : Block → Fin 11 → Block} (first last : Fin 11) {rs : List (Fin 11)}
    (h : ∀ a, ∀ r ∈ rs, f a r = g a r) :
    (first :: (rs ++ [last])).foldl f b = f (rs.foldl g (f b first)) last := by
  rw [List.foldl_cons, List.foldl_append, List.foldl_ext f g _ h, List.foldl_cons, List.foldl_nil]

/-- R191: the encryption written out: Initial, the nine rounds, Final. -/
theorem encryptBlock_eq : encryptBlock t k b =
    addRoundKey (shiftRows (substituteBytes t
      (List.foldl (fun st (r : Fin 11) => addRoundKey (mixColumns (shiftRows (substituteBytes t st))) (k.get r))
        (addRoundKey b (k.get 0)) [1, 2, 3, 4, 5, 6, 7, 8, 9]))) (k.get 10) := by
  have hmiddle : ∀ r ∈ ([1, 2, 3, 4, 5, 6, 7, 8, 9] : List (Fin 11)), r ≠ 0 ∧ r ≠ 10 := by decide
  have hstages := foldl_first_middle_last b 0 10 fun a r hr =>
    encryptStage_round t k a (hmiddle r hr).1 (hmiddle r hr).2
  rwa [encryptStage_zero, encryptStage_ten] at hstages

/-- R193: the decryption written out: undo Final, the nine rounds, Initial. -/
theorem decryptBlock_eq : decryptBlock t k b =
    addRoundKey
      (List.foldl (fun st (r : Fin 11) =>
          invSubstituteBytes t (invShiftRows (invMixColumns (addRoundKey st (k.get r)))))
        (invSubstituteBytes t (invShiftRows (addRoundKey b (k.get 10)))) [9, 8, 7, 6, 5, 4, 3, 2, 1])
      (k.get 0) := by
  have hmiddle : ∀ r ∈ ([9, 8, 7, 6, 5, 4, 3, 2, 1] : List (Fin 11)), r ≠ 0 ∧ r ≠ 10 := by decide
  have hstages := foldl_first_middle_last b 10 0 fun a r hr =>
    decryptStage_round t k a (hmiddle r hr).1 (hmiddle r hr).2
  rwa [decryptStage_zero, decryptStage_ten] at hstages

end

/-! ### Two block functions that undo each other -/

/-- Each of `f` and `g` undoes the other, on every block. -/
structure MutuallyInverse (f g : Block → Block) : Prop where
  left : Function.LeftInverse g f
  right : Function.LeftInverse f g

theorem MutuallyInverse.comp {f g f' g' : Block → Block} (h' : MutuallyInverse f' g') (h : MutuallyInverse f g) :
    MutuallyInverse (f' ∘ f) (g ∘ g') :=
  ⟨h'.left.comp h.left, h.right.comp h'.right⟩

theorem mutuallyInverse_substituteBytes :
    MutuallyInverse (substituteBytes buildTables) (invSubstituteBytes buildTables) :=
  ⟨invSubstituteBytes_leftInverse, substituteBytes_leftInverse⟩

theorem mutuallyInverse_shiftRows : MutuallyInverse shiftRows invShiftRows :=
  ⟨invShiftRows_leftInverse, shiftRows_leftInverse⟩

theorem mutuallyInverse_mixColumns : MutuallyInverse mixColumns invMixColumns :=
  ⟨invMixColumns_leftInverse, mixColumns_leftInverse⟩

theorem mutuallyInverse_addRoundKey (k : Block) : MutuallyInverse (addRoundKey · k) (addRoundKey · k) :=
  ⟨addRoundKey_involutive k, addRoundKey_involutive k⟩

/-- R193: the stages of one `RND` value, step for step from the last to the first. -/
theorem mutuallyInverse_stage (k : RoundKeys) (r : Fin 11) :
    MutuallyInverse (encryptStage buildTables k · r) (decryptStage buildTables k · r) := by
  have hrotated := mutuallyInverse_shiftRows.comp mutuallyInverse_substituteBytes
  have hkey := mutuallyInverse_addRoundKey (k.get r)
  by_cases h0 : r = 0
  · subst h0
    simp only [encryptStage_zero, decryptStage_zero]
    exact hkey
  by_cases h10 : r = 10
  · subst h10
    simp only [encryptStage_ten, decryptStage_ten]
    exact hkey.comp hrotated
  · simp only [encryptStage_round _ _ _ h0 h10, decryptStage_round _ _ _ h0 h10]
    exact hkey.comp (mutuallyInverse_mixColumns.comp hrotated)

/-- R195: stages that undo each other one by one do so in turn, the undoing ones taken in the opposite order. -/
theorem mutuallyInverse_foldl {f g : Block → Fin 11 → Block} (h : ∀ r, MutuallyInverse (f · r) (g · r))
    (rs : List (Fin 11)) : MutuallyInverse (rs.foldl f ·) (rs.reverse.foldl g ·) := by
  induction rs with
  | nil => exact ⟨fun _ => rfl, fun _ => rfl⟩
  | cons r rs ih =>
    simp only [List.foldl_cons, List.reverse_cons, List.foldl_append, List.foldl_nil]
    exact ih.comp (h r)

/-- R195, over the built tables and for every round-key file. -/
theorem mutuallyInverse_encryptBlock (k : RoundKeys) :
    MutuallyInverse (encryptBlock buildTables k) (decryptBlock buildTables k) :=
  mutuallyInverse_foldl (mutuallyInverse_stage k) rndSequence

/-! ### The commands -/

/-- R192, R194: the body of `ENCB` and `DECB`, which differ in the block function `f` only. -/
def cipherBody (f : Tables → RoundKeys → Block → Block) (p : Bytes) (s : State) : Answer := do
  let b ← blockOperand .invalidBlockSize p
  let k ← requireK s
  let t ← requireT s
  .ok (s.endCipher, (f t k b).toBytes)

theorem exec_encb_eq (p : Bytes) (s : State) : exec (.encb p) s = finish s (cipherBody encryptBlock p s) := rfl

theorem exec_decb_eq (p : Bytes) (s : State) : exec (.decb p) s = finish s (cipherBody decryptBlock p s) := rfl

section
variable (f : Tables → RoundKeys → Block → Block)

theorem cipherBody_of_noKey {s : State} (hk : s.rk = none) (b : Block) :
    cipherBody f b.toBytes s = .error .noKey := by
  rw [cipherBody, blockOperand_toBytes, answer_bind_ok, requireK_none hk, answer_bind_error]

/-- R244: the block size is checked before `KV`. -/
theorem cipherBody_of_length {p : Bytes} (h : p.length ≠ 16) (s : State) :
    cipherBody f p s = .error .invalidBlockSize := by
  rw [cipherBody, blockOperand_of_length _ h, answer_bind_error]

end

/-- Settles O48: both answers are those of block functions that undo each other. -/
theorem decbAndEncbUndoEachOther : Obligations.DecbAndEncbUndoEachOther := by
  intro s u k b hst hut hsk huk
  have hinv := mutuallyInverse_encryptBlock k
  refine ⟨⟨encryptBlock buildTables k b, exec_encb hst hsk b, ?_⟩,
    ⟨decryptBlock buildTables k b, exec_decb hst hsk b, ?_⟩⟩
  · rw [exec_decb hut huk, hinv.left b]
  · rw [exec_encb hut huk, hinv.right b]

/-- Settles O46: `ENCB` with key and tables, the block function written out, and the two errors. -/
theorem encbRunsTheTenRounds : Obligations.EncbRunsTheTenRounds := by
  refine fun s b => ⟨fun t k ht hk => ?_, fun hk => ?_, fun p hp => ?_⟩
  · rw [← encryptBlock_eq]
    exact exec_encb ht hk b
  · rw [exec_encb_eq, cipherBody_of_noKey _ hk, finish_error]
  · rw [exec_encb_eq, cipherBody_of_length _ hp, finish_error]

/-- Settles O47: `DECB` with key and tables, the block function written out, and the two errors. -/
theorem decbRunsTheMirror : Obligations.DecbRunsTheMirror := by
  refine fun s b => ⟨fun t k ht hk => ?_, fun hk => ?_, fun p hp => ?_⟩
  · rw [← decryptBlock_eq]
    exact exec_decb ht hk b
  · rw [exec_decb_eq, cipherBody_of_noKey _ hk, finish_error]
  · rw [exec_decb_eq, cipherBody_of_length _ hp, finish_error]

end Sys2Proof.Machine
end

section
/-! The statements of spec/45_ctr_streamer.md. Each byte of the increment keeps the carry it is given, so the walk adds 1
to the number the counter stands for (R207, R53). `unpad` answers a message exactly on that message's own padding (R208,
R209). The keystream loop XORs byte `j` with a keystream byte that depends on the counter and on `j` alone, so it is its
own inverse (R210, R217); `ENCS` is `DECS` of the padded message. -/

namespace Sys2Proof

/-! ### Columns and blocks as numbers -/

theorem Column.toNat_lt (w : Column) : w.toNat < 2 ^ 32 := by
  simp only [Column.toNat]
  omega

theorem Block.toNat_lt (b : Block) : b.toNat < 2 ^ 128 := by
  have h0 := b.c0.toNat_lt
  have h1 := b.c1.toNat_lt
  have h2 := b.c2.toNat_lt
  have h3 := b.c3.toNat_lt
  simp only [Block.toNat]
  omega

/-- R53: the bytes of a column are the digits of its number. -/
theorem Column.toNat_injective : Function.Injective Column.toNat := by
  intro v w h
  simp only [Column.toNat] at h
  ext1 <;> apply BitVec.eq_of_toNat_eq <;> omega

/-- R53: the columns of a block are the digits of its number. -/
theorem Block.toNat_injective : Function.Injective Block.toNat := by
  intro b d h
  have hb1 := b.c1.toNat_lt
  have hb2 := b.c2.toNat_lt
  have hb3 := b.c3.toNat_lt
  have hd1 := d.c1.toNat_lt
  have hd2 := d.c2.toNat_lt
  have hd3 := d.c3.toNat_lt
  simp only [Block.toNat] at h
  ext1 <;> apply Column.toNat_injective <;> omega

end Sys2Proof

namespace Sys2Proof.Machine

/-! ### The increment -/

/-- R207: the byte and its carry out hold the byte and the carry into it. -/
theorem incByte_toNat (b : Byte) (carry : Bool) :
    (incByte b carry).1.toNat + 256 * (incByte b carry).2.toNat = b.toNat + carry.toNat := by
  cases carry with
  | false => rfl
  | true =>
    by_cases hb : b = 0xff
    · subst hb; rfl
    · have hsucc : (b + 1).toNat = b.toNat + 1 := by bv_omega
      rw [incByte, if_pos rfl, if_neg hb]
      exact hsucc

theorem incColumn_toNat (w : Column) (carry : Bool) :
    (incColumn w carry).1.toNat + 2 ^ 32 * (incColumn w carry).2.toNat = w.toNat + carry.toNat := by
  have h3 := incByte_toNat w.b3 carry
  have h2 := incByte_toNat w.b2 (incByte w.b3 carry).2
  have h1 := incByte_toNat w.b1 (incByte w.b2 (incByte w.b3 carry).2).2
  have h0 := incByte_toNat w.b0 (incByte w.b1 (incByte w.b2 (incByte w.b3 carry).2).2).2
  simp only [incColumn, Column.toNat]
  omega

/-- R207: the increment adds 1; the carry out of byte 0 is dropped. -/
theorem incCounter_toNat (c : Block) : (incCounter c).toNat = (c.toNat + 1) % 2 ^ 128 := by
  have h3 := incColumn_toNat c.c3 true
  have h2 := incColumn_toNat c.c2 (incColumn c.c3 true).2
  have h1 := incColumn_toNat c.c1 (incColumn c.c2 (incColumn c.c3 true).2).2
  have h0 := incColumn_toNat c.c0 (incColumn c.c1 (incColumn c.c2 (incColumn c.c3 true).2).2).2
  have hlt := (incCounter c).toNat_lt
  simp only [incCounter, Block.toNat, Bool.toNat_true] at *
  omega

theorem iterate_incCounter_toNat (n : Nat) (c : Block) : (incCounter^[n] c).toNat = (c.toNat + n) % 2 ^ 128 := by
  induction n with
  | zero => rw [Function.iterate_zero_apply, Nat.add_zero, Nat.mod_eq_of_lt c.toNat_lt]
  | succ n ih => rw [Function.iterate_succ_apply', incCounter_toNat, ih, Nat.mod_add_mod, Nat.add_assoc]

/-- Settles O52: one increment adds 1, and the bytes are the digits of the number. -/
theorem incrementsCountModulo2Pow128 : Obligations.IncrementsCountModulo2Pow128 :=
  ⟨iterate_incCounter_toNat, fun _ _ h => Block.toNat_injective h⟩

/-! ### The counter commands -/

/-- R206: the packet of `LOADIV` with a counter. -/
theorem encode_loadiv {p : Bytes} (h : p.length = 16) : encode (.loadiv p) = [0x60, 0x00, 0x00, 0x10] ++ p := by
  show headerBytes 0x60 p.length ++ p = _
  rw [h]
  rfl

theorem exec_loadiv (c : Block) (s : State) :
    exec (.loadiv c.toBytes) s = .next ((s.setCtr (some c)).respond []) := rfl

theorem exec_loadiv_of_length {p : Bytes} (h : p.length ≠ 16) (s : State) :
    exec (.loadiv p) s = .next (s.raise .invalidIVSize) := by
  show finish s (blockOperand .invalidIVSize p >>= fun _ => _) = _
  rw [blockOperand_of_length _ h, answer_bind_error, finish_error]

/-- R211, R212: the body of `RDCTR` and `INCCTR`, which differ in what they make of the counter only. -/
def counterBody (f : Block → State × Bytes) (p : Bytes) (s : State) : Answer := do
  noOperand p
  let c ← requireC s
  .ok (f c)

theorem exec_rdctr_eq (p : Bytes) (s : State) :
    exec (.rdctr p) s = finish s (counterBody (fun c => (s, c.toBytes)) p s) := rfl

theorem exec_incctr_eq (p : Bytes) (s : State) :
    exec (.incctr p) s = finish s (counterBody (fun c => (s.setCtr (some (incCounter c)), [])) p s) := rfl

section
variable (f : Block → State × Bytes)

theorem counterBody_some {s : State} {c : Block} (hc : s.ctr = some c) : counterBody f [] s = .ok (f c) := by
  rw [counterBody, noOperand_nil, answer_bind_ok, requireC_some hc, answer_bind_ok]

theorem counterBody_none {s : State} (hc : s.ctr = none) : counterBody f [] s = .error .noIV := by
  rw [counterBody, noOperand_nil, answer_bind_ok, requireC_none hc, answer_bind_error]

/-- R244: the length is checked before `CV`. -/
theorem counterBody_of_length {p : Bytes} (h : p.length ≠ 0) (s : State) :
    counterBody f p s = .error .invalidOperand := by
  rw [counterBody, noOperand_of_length h, answer_bind_error]

end

/-- Settles O50: 16 bytes are the bytes of one counter, which `LOADIV` loads and `RDCTR` answers. -/
theorem loadivThenRdctrKeepsTheCounter : Obligations.LoadivThenRdctrKeepsTheCounter := by
  refine fun s p => ⟨encode_loadiv, rfl, fun hp => ?_, (exec_loadiv_of_length · s), fun hc => ?_, fun hp => ?_⟩
  · obtain ⟨c, rfl⟩ := Block.exists_toBytes hp
    refine ⟨c, rfl, exec_loadiv c s, fun u hc => ?_⟩
    rw [exec_rdctr_eq, counterBody_some _ hc, finish_ok]
  · rw [exec_rdctr_eq, counterBody_none _ hc, finish_error]
  · rw [exec_rdctr_eq, counterBody_of_length _ hp, finish_error]

/-- Settles O51: the counter `INCCTR` leaves is the incremented one. -/
theorem incctrAddsOneModulo2Pow128 : Obligations.IncctrAddsOneModulo2Pow128 := by
  refine fun s => ⟨rfl, fun c hc => ⟨incCounter c, ?_, incCounter_toNat c⟩, fun hc => ?_, fun p hp => ?_⟩
  · rw [exec_incctr_eq, counterBody_some _ hc, finish_ok]
    rfl
  · rw [exec_incctr_eq, counterBody_none _ hc, finish_error]
  · rw [exec_incctr_eq, counterBody_of_length _ hp, finish_error]

/-! ### Padding -/

/-- R208: `16 − (LEN mod 16)`, the constants of R7 filled in. -/
theorem padCount_eq (n : Nat) : padCount n = 16 - n % 16 := rfl

theorem padCount_pos (n : Nat) : 1 ≤ padCount n := by
  rw [padCount_eq]
  omega

theorem padCount_le (n : Nat) : padCount n ≤ 16 := Nat.sub_le ..

@[simp] theorem length_pad (m : Bytes) : (pad m).length = m.length + padCount m.length := by simp [pad]

theorem length_pad_mod (m : Bytes) : (pad m).length % 16 = 0 := by
  rw [length_pad, padCount_eq]
  omega

theorem exec_pad {m : Bytes} (h : m.length ≤ Config.maxPadIn) (s : State) :
    exec (.pad m) s = .next (s.respond (pad m)) := by
  show finish s (paddableMessage m >>= fun _ => _) = _
  rw [paddableMessage_of_le h, answer_bind_ok, finish_ok]

theorem exec_pad_of_gt {m : Bytes} (h : Config.maxPadIn < m.length) (s : State) :
    exec (.pad m) s = .next (s.raise .invalidOperand) := by
  show finish s (paddableMessage m >>= fun _ => _) = _
  rw [paddableMessage_of_gt h, answer_bind_error, finish_error]

/-- Settles O53: the pad is `padCount` bytes, from 1 to 16. -/
theorem padAppendsOneToSixteenBytes : Obligations.PadAppendsOneToSixteenBytes :=
  fun s m => ⟨rfl, fun h => ⟨padCount m.length, rfl, padCount_pos _, padCount_le _, exec_pad h s⟩,
    fun h => exec_pad_of_gt h s⟩

/-- R208: the pad's value, read back from one of its bytes. -/
theorem toNat_padByte (n : Nat) : (BitVec.ofNat 8 (padCount n)).toNat = padCount n :=
  Nat.mod_eq_of_lt (lt_of_le_of_lt (padCount_le n) (by decide))

theorem getLast?_pad (m : Bytes) : (pad m).getLast? = some (BitVec.ofNat 8 (padCount m.length)) := by
  have hpos := padCount_pos m.length
  rw [pad, List.getLast?_append, List.getLast?_replicate, if_neg (by omega), Option.some_or]

/-- R209: `unpad(pad(P)) = P`. -/
theorem unpad_pad (m : Bytes) : unpad (pad m) = some m := by
  have hmod := length_pad_mod m
  have hpos := padCount_pos m.length
  have hle := padCount_le m.length
  have hlen : (pad m).length - padCount m.length = m.length := by rw [length_pad, Nat.add_sub_cancel]
  have hdrop : (pad m).drop m.length = List.replicate (padCount m.length) (BitVec.ofNat 8 (padCount m.length)) :=
    List.drop_left
  have htake : (pad m).take m.length = m := List.take_left
  simp only [unpad, getLast?_pad, toNat_padByte, hlen, hdrop, htake, Config.blockBytes, Config.padMax]
  rw [if_neg (by omega), if_neg (by omega), if_pos (by simp)]

/-- R208: a last part of `n` bytes of value `n` that fills up whole blocks is the pad of what stands before it. -/
theorem append_replicate_eq_pad {m : Bytes} {n : Byte} (hlo : 1 ≤ n.toNat) (hhi : n.toNat ≤ 16)
    (hmod : (m.length + n.toNat) % 16 = 0) : m ++ List.replicate n.toNat n = pad m := by
  have hcount : padCount m.length = n.toNat := by
    rw [padCount_eq]
    omega
  rw [pad, hcount, BitVec.ofNat_toNat, BitVec.setWidth_eq]

/-- R209: what `unpad` answers is a message whose padding it was given: `pad(unpad(m)) = m`. -/
theorem eq_pad_of_unpad {p m : Bytes} (h : unpad p = some m) : p = pad m := by
  unfold unpad at h
  split at h
  next => cases h
  next n hlast =>
    have hne : p ≠ [] := by rintro rfl; cases hlast
    have hpos : 0 < p.length := List.length_pos_of_ne_nil hne
    obtain ⟨hmod, h⟩ := Option.ite_none_left_eq_some.1 h
    obtain ⟨hrange, h⟩ := Option.ite_none_left_eq_some.1 h
    obtain ⟨hall, h⟩ := Option.ite_none_right_eq_some.1 h
    cases h
    simp only [Config.blockBytes, Config.padMax] at hmod hrange
    have htail : p.drop (p.length - n.toNat) = List.replicate n.toNat n := by
      refine List.eq_replicate_iff.2 ⟨by rw [List.length_drop]; omega, fun b hb => ?_⟩
      exact eq_of_beq (List.all_eq_true.1 hall b hb)
    rw [← append_replicate_eq_pad (n := n) (by omega) (by omega) (by rw [List.length_take]; omega), ← htail,
      List.take_append_drop]

theorem exec_unpad {p m : Bytes} (h : unpad p = some m) (s : State) : exec (.unpad p) s = .next (s.respond m) := by
  simp [exec, execUnpad, h]

theorem exec_unpad_of_none {p : Bytes} (h : unpad p = none) (s : State) :
    exec (.unpad p) s = .next (s.raise .invalidPadding) := by
  simp [exec, execUnpad, h]

/-- Settles O54: `unpad` undoes `pad`, and answers nothing but a message whose padding it was given. -/
theorem unpadAcceptsExactlyPaddedMessages : Obligations.UnpadAcceptsExactlyPaddedMessages := by
  refine fun s => ⟨fun m => exec_unpad (unpad_pad m) s, fun p hp => exec_unpad_of_none ?_ s⟩
  cases h : unpad p with
  | none => rfl
  | some m => exact absurd (eq_pad_of_unpad h) (hp m)

/-! ### The keystream loop -/

/-- R210: byte `j` of the keystream from the counter `c`. -/
def keystreamByte (t : Tables) (k : RoundKeys) (c : Block) (j : Nat) : Byte :=
  (encryptBlock t k (incCounter^[j / 16] c)).toBytes.getD (j % 16) 0

/-- R210: `ctrXor(d)` on bytes. -/
def stream (t : Tables) (k : RoundKeys) (c : Block) (d : Bytes) : Bytes := fromBlocks (ctrXor t k c (toBlocks d))

section
variable (t : Tables) (k : RoundKeys) (c : Block)

theorem keystreamByte_of_lt {j : Nat} (h : j < 16) :
    keystreamByte t k c j = (encryptBlock t k c).toBytes.getD j 0 := by
  rw [keystreamByte, Nat.div_eq_of_lt h, Nat.mod_eq_of_lt h, Function.iterate_zero_apply]

/-- A block later, the keystream is that of the next counter. -/
theorem keystreamByte_add (j : Nat) : keystreamByte t k c (j + 16) = keystreamByte t k (incCounter c) j := by
  rw [keystreamByte, Nat.add_div_right _ (by decide), Nat.add_mod_right, Function.iterate_succ_apply]
  rfl

theorem getD_toBytes_xor (a b : Block) {j : Nat} (h : j < 16) :
    (a.xor b).toBytes.getD j 0 = a.toBytes.getD j 0 ^^^ b.toBytes.getD j 0 := by
  interval_cases j <;> rfl

theorem getD_fromBlocks_cons_add (b : Block) (bs : List Block) (j : Nat) :
    (fromBlocks (b :: bs)).getD (j + 16) 0 = (fromBlocks bs).getD j 0 := by
  rw [fromBlocks_cons, List.getD_append_right _ _ _ _ (by simp), Block.length_toBytes, Nat.add_sub_cancel]

/-- R210: byte `j` of the loop's answer. -/
theorem getD_ctrXor (ds : List Block) {j : Nat} (h : j < 16 * ds.length) :
    (fromBlocks (ctrXor t k c ds)).getD j 0 = (fromBlocks ds).getD j 0 ^^^ keystreamByte t k c j := by
  induction ds generalizing c j with
  | nil => simp at h
  | cons d ds ih =>
    obtain hj | hj := Nat.lt_or_ge j 16
    · rw [ctrXor, fromBlocks_cons, fromBlocks_cons, List.getD_append _ _ _ _ (by simpa), List.getD_append _ _ _ _ (by simpa),
        getD_toBytes_xor _ _ hj, keystreamByte_of_lt _ _ _ hj]
    · obtain ⟨i, rfl⟩ := Nat.exists_eq_add_of_le' hj
      have hi : i < 16 * ds.length := by
        rw [List.length_cons] at h
        omega
      rw [ctrXor, getD_fromBlocks_cons_add, getD_fromBlocks_cons_add, keystreamByte_add, ih _ hi]

/-- R210: the loop is its own inverse for the same starting counter. -/
theorem ctrXor_ctrXor (ds : List Block) : ctrXor t k c (ctrXor t k c ds) = ds := by
  induction ds generalizing c with
  | nil => rfl
  | cons d ds ih => exact congrArg₂ _ (addRoundKey_involutive (encryptBlock t k c) d) (ih _)

variable {d : Bytes} (hd : d.length % 16 = 0)
include hd

/-- Whole blocks are nothing but their blocks. -/
theorem fromBlocks_toBlocks_of_mod : fromBlocks (toBlocks d) = d :=
  fromBlocks_toBlocks (n := d.length / 16) (by omega)

theorem length_stream : (stream t k c d).length = d.length := by
  conv_rhs => rw [← fromBlocks_toBlocks_of_mod hd]
  rw [stream, length_fromBlocks, length_ctrXor, length_fromBlocks]

theorem getD_stream {j : Nat} (h : j < d.length) : (stream t k c d).getD j 0 = d.getD j 0 ^^^ keystreamByte t k c j := by
  have hlen := length_fromBlocks (toBlocks d)
  rw [fromBlocks_toBlocks_of_mod hd] at hlen
  rw [stream, getD_ctrXor _ _ _ _ (hlen ▸ h), fromBlocks_toBlocks_of_mod hd]

theorem stream_stream : stream t k c (stream t k c d) = d := by
  rw [stream, stream, toBlocks_fromBlocks, ctrXor_ctrXor, fromBlocks_toBlocks_of_mod hd]

end

/-! ### The stream commands -/

/-- R214: `DECS` of whole blocks, with tables, key and counter. -/
theorem exec_decs {s : State} {t : Tables} {k : RoundKeys} {c : Block} (ht : s.tables = some t) (hk : s.rk = some k)
    (hc : s.ctr = some c) {d : Bytes} (hd : d.length % 16 = 0) :
    exec (.decs d) s = .next ((s.setCtr none).endCipher.respond (stream t k c d)) := by
  show finish s (wholeBlocks d >>= fun _ => requireK s >>= fun _ => requireC s >>= fun _ => requireT s >>= fun _ => _) = _
  rw [wholeBlocks_of_dvd hd, answer_bind_ok, requireK_some hk, answer_bind_ok, requireC_some hc, answer_bind_ok,
    requireT_some ht, answer_bind_ok, finish_ok]
  rfl

/-- Settles O59: both payloads pass their length check, and the bodies are the same from there. -/
theorem encsIsDecsOfThePaddedMessage : Obligations.EncsIsDecsOfThePaddedMessage := by
  intro s m hm
  show finish s (paddableMessage m >>= fun _ => _) = finish s (wholeBlocks (pad m) >>= fun _ => _)
  rw [paddableMessage_of_le hm, wholeBlocks_of_dvd (length_pad_mod m), answer_bind_ok, answer_bind_ok]

/-- R213: `ENCS` of a message, with tables, key and counter. -/
theorem exec_encs {s : State} {t : Tables} {k : RoundKeys} {c : Block} (ht : s.tables = some t) (hk : s.rk = some k)
    (hc : s.ctr = some c) {m : Bytes} (hm : m.length ≤ Config.maxPadIn) :
    exec (.encs m) s = .next ((s.setCtr none).endCipher.respond (stream t k c (pad m))) :=
  (encsIsDecsOfThePaddedMessage s m hm).trans (exec_decs ht hk hc (length_pad_mod m))

/-- Settles O56: the loop keeps the length and XORs byte by byte. -/
theorem decsXorsTheSameKeystream : Obligations.DecsXorsTheSameKeystream :=
  fun _ t k c d ht hk hc hd => ⟨stream t k c d, exec_decs ht hk hc hd, length_stream t k c hd,
    fun _ hj => getD_stream t k c hd (length_stream t k c hd ▸ hj)⟩

/-- Settles O55: the same loop over the padded message. -/
theorem encsXorsTheKeystream : Obligations.EncsXorsTheKeystream := by
  intro s t k c m ht hk hc hm
  have hpad := length_pad_mod m
  have hlen := length_stream t k c hpad
  exact ⟨stream t k c (pad m), exec_encs ht hk hc hm, hlen.trans (length_pad m),
    fun _ hj => getD_stream t k c hpad (hlen ▸ hj)⟩

/-- Settles O58: the loop undoes itself, and `unpad` undoes `pad`. -/
theorem streamRoundTripGivesTheMessageBack : Obligations.StreamRoundTripGivesTheMessageBack := by
  intro s u w t k c m hst hsk hsc hut huk huc hm
  have hpad := length_pad_mod m
  refine ⟨stream t k c (pad m), pad m, exec_encs hst hsk hsc hm, ?_, exec_unpad (unpad_pad m) w⟩
  rw [exec_decs hut huk huc ((length_stream t k c hpad).symm ▸ hpad), stream_stream t k c hpad]
  rfl

end Sys2Proof.Machine
end

section
/-! The statements of spec/46_system.md. Each valid flag is one bit of `STATUS` and the four positions are distinct, so the
byte says the four flags and nothing else (R29); `RDSTAT` answers it, whatever they are (R236). -/

namespace Sys2Proof.Machine

/-! ### The bits of `STATUS` -/

/-- A flag at position `n` of a byte is bit `n`, and every other bit is 0. -/
theorem getLsbD_flagBit (f : Bool) {n : Nat} (hn : n < 8) (i : Nat) :
    (flagBit f n).getLsbD i = (decide (i = n) && f) := by
  cases f with
  | false => simp [flagBit]
  | true =>
    rw [flagBit, Bool.toNat_true, Nat.one_shiftLeft, BitVec.getLsbD_ofNat, Nat.testBit_two_pow, Bool.and_true]
    by_cases hi : i = n
    · simp [hi, hn]
    · simp [hi, Ne.symm hi]

/-- R29: bit `i` of `STATUS`, for every `i`. -/
theorem State.getLsbD_status (s : State) (i : Nat) : s.status.getLsbD i =
    (decide (i = 0) && s.tv || decide (i = 1) && s.kv || decide (i = 2) && s.cv || decide (i = 3) && s.sv) := by
  simp [State.status, getLsbD_flagBit]

/-- R29: bits 7:4 of `STATUS` are hardwired 0. -/
theorem State.getLsbD_status_of_ge (s : State) {i : Nat} (hi : 4 ≤ i) : s.status.getLsbD i = false := by
  have hne : ∀ n < 4, i ≠ n := fun n hn => (hn.trans_le hi).ne'
  simp [s.getLsbD_status, hne]

/-- R28, R29: of the sixteen bytes four flags make, those four in which bit 1 is set and bit 0 is not do not occur. -/
theorem flagBits_mem_of_imp : ∀ tv kv cv sv : Bool, (kv = true → tv = true) →
    flagBit tv 0 ||| flagBit kv 1 ||| flagBit cv 2 ||| flagBit sv 3 ∈
      ([0x00, 0x01, 0x03, 0x04, 0x05, 0x07, 0x08, 0x09, 0x0b, 0x0c, 0x0d, 0x0f] : List Byte) := by
  decide

/-! ### `RDSTAT` -/

/-- R236: `RDSTAT` without operand requires nothing and writes nothing. -/
theorem exec_rdstat (s : State) : exec (.rdstat []) s = .next (s.respond [s.status]) := rfl

/-- R236: with any other `LEN` it answers `InvalidOperand`. -/
theorem exec_rdstat_of_length (s : State) {p : Bytes} (h : p.length ≠ 0) :
    exec (.rdstat p) s = .next (s.raise .invalidOperand) := by
  show finish s (noOperand p >>= fun _ => _) = _
  rw [noOperand_of_length h, answer_bind_error, finish_error]

/-- Settles O25: the two ends of the length check, and `STATUS` bit by bit. -/
theorem rdstatAnswersTheFlags : Obligations.RdstatAnswersTheFlags :=
  fun s => ⟨exec_rdstat s, fun _ => exec_rdstat_of_length s,
    (s.getLsbD_status 0).trans (by simp), (s.getLsbD_status 1).trans (by simp), (s.getLsbD_status 2).trans (by simp),
    (s.getLsbD_status 3).trans (by simp), fun _ => s.getLsbD_status_of_ge,
    flagBits_mem_of_imp s.tv s.kv s.cv s.sv⟩

end Sys2Proof.Machine
end

section
/-! The statements of spec/60_exceptions.md. The error matrix is `exec_outcome`; an error response is the only one whose
status is not `OK` (R245). That a failure shows the packet and the flags only (R243) holds in every state, so it is said
for two answers side by side, check by check. -/

namespace Sys2Proof.Machine

/-! ### The error kinds -/

/-- Settles O14: the thirteen rows of the error table, evaluated. -/
theorem errorKindsHaveTheirCodes : Obligations.ErrorKindsHaveTheirCodes := rfl

/-- R84, R241: no error kind has the status of an `OK` response. -/
theorem ErrorKind.code_ne_ok (e : ErrorKind) : e.code ≠ 0x00 := by cases e <;> decide

/-- R84, R245: the bytes of an error response. -/
theorem State.raise_rsp_eq (s : State) (e : ErrorKind) : (s.raise e).rsp = s.rsp ++ [e.code, 0x00, 0x00, 0x00] := rfl

/-- R84: the bytes of an `OK` response begin with the status 0x00. -/
theorem State.exists_respond_rsp (t : State) (v : Bytes) : ∃ more, (t.respond v).rsp = t.rsp ++ 0x00 :: more :=
  ⟨_, rfl⟩

/-- R84: the status is the first byte that is sent after those sent before. -/
theorem status_eq_of_sent_eq {before more more' : Bytes} {c c' : Byte}
    (h : before ++ c :: more = before ++ c' :: more') : c = c' := (List.cons.inj (List.append_cancel_left h)).1

/-! ### The error matrix -/

/-- The body of a completing command sends nothing. -/
theorem Written.rsp_eq {s t : State} (hw : Written s t) : t.rsp = s.rsp := by cases hw <;> rfl

/-- Settles O15: the error the matrix names is the one raised, and a command without one completes. -/
theorem everyCommandFollowsTheErrorMatrix : Obligations.EveryCommandFollowsTheErrorMatrix := by
  intro i s hkt
  obtain ⟨e, herr, hx⟩ | ⟨herr, t, v, hx, hc⟩ := exec_outcome i hkt
  · refine ⟨fun e' he' => ?_, fun hnone => absurd (herr.symm.trans hnone) nofun⟩
    cases herr.symm.trans he'
    exact hx
  · exact ⟨fun e' he' => absurd (herr.symm.trans he') nofun, fun _ => ⟨t, v, hx, hc.written.rsp_eq⟩⟩

/-! ### A failed command -/

/-- Settles O16: a completed command's response begins with 0x00, so the command has raised an error. -/
theorem failedCommandChangesNothing : Obligations.FailedCommandChangesNothing := by
  intro i s t c more hexec hrsp hc
  obtain ⟨u, v, hx, hports⟩ | ⟨e, hx⟩ := exec_cases i s
  · cases hx.symm.trans hexec
    obtain ⟨sent, hsent⟩ := u.exists_respond_rsp v
    rw [hsent, hports.rsp] at hrsp
    exact absurd (status_eq_of_sent_eq hrsp).symm hc
  · cases hx.symm.trans hexec
    rw [State.raise_rsp_eq] at hrsp
    cases status_eq_of_sent_eq hrsp
    rfl

/-! ### What a failure depends on -/

/-- The states have the same four flags. -/
structure SameFlags (s u : State) : Prop where
  tv : s.tv = u.tv
  kv : s.kv = u.kv
  cv : s.cv = u.cv
  sv : s.sv = u.sv

/-- R29: `STATUS` says the four flags. -/
theorem sameFlags_of_status {s u : State} (h : s.status = u.status) : SameFlags s u := by
  obtain ⟨-, -, htv, hkv, hcv, hsv, -⟩ := rdstatAnswersTheFlags s
  obtain ⟨-, -, htv', hkv', hcv', hsv', -⟩ := rdstatAnswersTheFlags u
  rw [h] at htv hkv hcv hsv
  exact ⟨htv.symm.trans htv', hkv.symm.trans hkv', hcv.symm.trans hcv', hsv.symm.trans hsv'⟩

/-- Two computations fail with the same error, or both have a value and the first one's meets `P`. -/
inductive FailAlike {α β : Type} (P : α → Prop) : Except ErrorKind α → Except ErrorKind β → Prop where
  | ok {x : α} {y : β} : P x → FailAlike P (.ok x) (.ok y)
  | error (e : ErrorKind) : FailAlike P (.error e) (.error e)

/-- R244: a check that fails alike, before bodies that fail alike whatever values they are given. -/
theorem FailAlike.bind {α β : Type} {P : α → Prop} {Q : State × Bytes → Prop} {c : Except ErrorKind α}
    {d : Except ErrorKind β} {f : α → Answer} {g : β → Answer} (hc : FailAlike P c d)
    (hf : ∀ x y, FailAlike Q (f x) (g y)) : FailAlike Q (c >>= f) (d >>= g) := by
  cases hc with
  | ok _ => exact hf _ _
  | error e => exact .error e

/-- A check of the packet alone fails like itself. -/
theorem FailAlike.refl {α : Type} (c : Except ErrorKind α) : FailAlike (fun _ => True) c c := by
  cases c with
  | ok x => exact .ok trivial
  | error e => exact .error e

/-- Two computations whose checks find the same error. -/
theorem Checks.failAlike {α β : Type} {err : Option ErrorKind} {P : α → Prop} {Q : β → Prop}
    {c : Except ErrorKind α} {d : Except ErrorKind β} (hc : Checks err P c) (hd : Checks err Q d) :
    FailAlike P c d := by
  cases err with
  | some e => cases hc; cases hd; exact .error e
  | none =>
    obtain ⟨x, rfl, hx⟩ := hc
    obtain ⟨y, rfl, -⟩ := hd
    exact .ok hx

section
variable {s u : State} (h : SameFlags s u)
include h

theorem SameFlags.requireT_alike : FailAlike (fun t => s.tables = some t) (requireT s) (requireT u) :=
  (requireT_checks s).failAlike (h.tv ▸ requireT_checks u)

theorem SameFlags.requireK_alike : FailAlike (fun k => s.rk = some k) (requireK s) (requireK u) :=
  (requireK_checks s).failAlike (h.kv ▸ requireK_checks u)

theorem SameFlags.requireC_alike : FailAlike (fun c => s.ctr = some c) (requireC s) (requireC u) :=
  (requireC_checks s).failAlike (h.cv ▸ requireC_checks u)

theorem SameFlags.requireS_alike : FailAlike (fun m => s.matrix = some m) (requireS s) (requireS u) :=
  (requireS_checks s).failAlike (h.sv ▸ requireS_checks u)

/-- R243: the checks of every command read the packet and the flags, so they end alike in two states with the same
flags; the body after them has sent nothing. -/
theorem exec_failAlike (i : Instr) : ∃ a b : Answer, exec i s = finish s a ∧ exec i u = finish u b ∧
    FailAlike (fun r => r.1.rsp = s.rsp) a b := by
  cases i <;> refine ⟨_, _, rfl, rfl, ?_⟩
  case init p => exact (FailAlike.refl (noOperand p)).bind fun _ _ => .ok (by split <;> rfl)
  case rdstat p | clrkey p => exact (FailAlike.refl (noOperand p)).bind fun _ _ => .ok rfl
  case gfinv p | affine p | xtime p => exact (FailAlike.refl (oneByte p)).bind fun _ _ => .ok rfl
  case ldst p | loadiv p => exact (FailAlike.refl (blockOperand _ p)).bind fun _ _ => .ok rfl
  case pad p => exact (FailAlike.refl (paddableMessage p)).bind fun _ _ => .ok rfl
  case unpad p =>
    cases unpad p with
    | some m => exact .ok rfl
    | none => exact .error _
  case sbox p | isbox p =>
    exact (FailAlike.refl (oneByte p)).bind fun _ _ => h.requireT_alike.bind fun _ _ => .ok rfl
  case rdst p | shrow p | ishrow p | mixc p | imixc p =>
    exact (FailAlike.refl (noOperand p)).bind fun _ _ => h.requireS_alike.bind fun _ _ => .ok rfl
  case subb p | isubb p =>
    exact (FailAlike.refl (noOperand p)).bind fun _ _ => h.requireT_alike.bind fun _ _ =>
      h.requireS_alike.bind fun _ _ => .ok rfl
  case addrk p =>
    exact (FailAlike.refl (roundKeyIndex p)).bind fun _ _ => h.requireK_alike.bind fun _ _ =>
      h.requireS_alike.bind fun _ _ => .ok rfl
  case loadkey p =>
    exact (FailAlike.refl (blockOperand _ p)).bind fun _ _ => h.requireT_alike.bind fun _ _ => .ok rfl
  case rdrk p =>
    exact (FailAlike.refl (roundKeyIndex p)).bind fun _ _ => h.requireK_alike.bind fun _ _ => .ok rfl
  case encb p | decb p =>
    exact (FailAlike.refl (blockOperand _ p)).bind fun _ _ => h.requireK_alike.bind fun _ _ =>
      h.requireT_alike.bind fun _ _ => .ok rfl
  case rdctr p | incctr p =>
    exact (FailAlike.refl (noOperand p)).bind fun _ _ => h.requireC_alike.bind fun _ _ => .ok rfl
  case encs p =>
    exact (FailAlike.refl (paddableMessage p)).bind fun _ _ => h.requireK_alike.bind fun _ _ =>
      h.requireC_alike.bind fun _ _ => h.requireT_alike.bind fun _ _ => .ok rfl
  case decs p =>
    exact (FailAlike.refl (wholeBlocks p)).bind fun _ _ => h.requireK_alike.bind fun _ _ =>
      h.requireC_alike.bind fun _ _ => h.requireT_alike.bind fun _ _ => .ok rfl

end

/-- R84, R241: an `OK` response and an error response never look the same on the response port. -/
theorem State.respond_ne_raise {s t : State} (h : t.rsp = s.rsp) (v : Bytes) (e : ErrorKind) :
    t.respond v ≠ s.raise e := by
  intro heq
  obtain ⟨sent, hsent⟩ := t.exists_respond_rsp v
  rw [heq, State.raise_rsp_eq, h] at hsent
  exact e.code_ne_ok (status_eq_of_sent_eq hsent)

/-- R84: an error response shows its error's code. -/
theorem State.code_eq_of_raise_eq {s : State} {e e' : ErrorKind} (h : s.raise e = s.raise e') : e.code = e'.code := by
  have hsent := congrArg State.rsp h
  rw [State.raise_rsp_eq, State.raise_rsp_eq] at hsent
  exact status_eq_of_sent_eq hsent

/-- Settles O17: the checks end alike, and only a check that fails ends in an error response. -/
theorem errorsDependOnPacketAndFlagsOnly : Obligations.ErrorsDependOnPacketAndFlagsOnly := by
  intro i s u e hstatus hs
  obtain ⟨a, b, ha, hb, hab⟩ := exec_failAlike (sameFlags_of_status hstatus) i
  rw [ha] at hs
  rw [hb]
  cases hab with
  | ok hrsp => exact absurd (Host.Outcome.next.inj hs) (State.respond_ne_raise hrsp _ e)
  | error e' =>
    have hcode : e'.code = e.code := State.code_eq_of_raise_eq (Host.Outcome.next.inj hs)
    exact congrArg (fun code => Host.Outcome.next (u.send code [])) hcode

/-! ### Illegal opcodes -/

/-- R83, R87: a whole packet whose opcode is not in the map, and what follows it. -/
theorem decode_of_illegal_opcode {opc : Byte} {payload : Bytes} (hopc : ∀ p, decodeOpcode opc p = none)
    (hlen : payload.length ≤ Config.maxLen) (rest : Bytes) :
    decode (headerBytes opc payload.length ++ payload ++ rest) = .illegalCommand opc payload rest := by
  rw [List.append_assoc, decode_headerBytes opc hlen]
  simp [decodeTail, hopc]

/-- R87, R249: the step on such a packet, with reset released. -/
theorem step_of_decode_illegal {s : State} {opc : Byte} {payload rest : Bytes} (hrst : s.rst = false)
    (hd : decode (s.buffer ++ s.cmd) = .illegalCommand opc payload rest) :
    step s = .next ((s.consume rest).raise .illegalCommand) := by
  simp [step, hrst, hd]

/-- Settles O7: the decoder finds the illegal opcode, and the step raises `IllegalCommand` on the state `consume`
leaves. -/
theorem stepAnswersIllegalCommand : Obligations.StepAnswersIllegalCommand := by
  intro s opc payload rest hrst hopc hlen hbytes
  exact step_of_decode_illegal hrst (hbytes ▸ decode_of_illegal_opcode hopc hlen rest)

/-! ### Several engines -/

/-- R262: stepping the engine at index `k` writes the next state at `k`. -/
theorem stepEngine_of_next {k : Nat} {engines : List State} {s t : State} (hk : engines[k]? = some s)
    (hstep : step s = .next t) : stepEngine k engines = engines.set k t := by
  simp [stepEngine, hk, hstep]

/-- R262: whatever the engine at index `k` does, the list is written at `k` or not at all. -/
theorem stepEngine_cases (k : Nat) (engines : List State) :
    stepEngine k engines = engines ∨ ∃ t, stepEngine k engines = engines.set k t := by
  unfold stepEngine
  split
  next => exact .inl rfl
  next s _ =>
    split
    next t _ => exact .inr ⟨t, rfl⟩
    next => exact .inl rfl
    next => exact .inl rfl

/-- Settles O60: a write at `k` is not seen at another index and is read back at `k`. -/
theorem enginesDoNotTouchEachOther : Obligations.EnginesDoNotTouchEachOther := by
  intro k engines
  constructor
  · intro j hj
    obtain hkeep | ⟨t, hset⟩ := stepEngine_cases k engines
    · rw [hkeep]
    · rw [hset, List.getElem?_set_ne hj.symm]
  · intro s t hk hstep
    obtain ⟨hlt, -⟩ := List.getElem?_eq_some_iff.1 hk
    rw [stepEngine_of_next hk hstep, List.getElem?_set_self hlt]

end Sys2Proof.Machine
end

section
/-! The statements of spec/70_reset_and_hazards.md. A step is said case by case, and each case answers a next state (R271,
R274, R276); the counters of a stream command are numbers modulo 2¹²⁸, and the block encryption loses none of them
(R280). -/

namespace Sys2Proof.Machine

/-! ### Reset -/

/-- Settles O10: each field of the reset state, and the flags and `STATUS` computed from them. -/
theorem resetLeavesEverythingAbsent : Obligations.ResetLeavesEverythingAbsent :=
  ⟨rfl, rfl, rfl, rfl, rfl, rfl, rfl, rfl, rfl, rfl, rfl, rfl, rfl, rfl⟩

/-- Settles O21: nothing is loaded, buffered or sent at reset. -/
theorem invariantHoldsAtReset : Obligations.InvariantHoldsAtReset := inv_reset

/-- R271: the step with reset asserted. -/
theorem step_of_rst {s : State} (hrst : s.rst = true) : step s = .next State.reset := if_pos hrst

/-- Settles O9: reset is asked for before the decoder is. -/
theorem resetWinsOverEverything : Obligations.ResetWinsOverEverything := fun _ hrst => step_of_rst hrst

/-! ### Waiting -/

/-- R274: the step on a packet that is not complete, with reset released. -/
theorem step_of_decode_incomplete {s : State} (hrst : s.rst = false)
    (hd : decode (s.buffer ++ s.cmd) = .incomplete) : step s = .next s.hold := by
  simp [step, hrst, hd]

/-- Settles O8: `hold` is the move of the offered bytes to the buffer. -/
theorem stepWaitsForTheRestOfAPacket : Obligations.StepWaitsForTheRestOfAPacket :=
  fun _ hrst hd => step_of_decode_incomplete hrst hd

/-! ### The engine never halts -/

/-- R240, R245: a command that fails ends in a next state too. -/
theorem exec_exists_next (i : Instr) (s : State) : ∃ t, exec i s = .next t := by
  obtain ⟨t, v, hx, -⟩ | ⟨e, hx⟩ := exec_cases i s
  · exact ⟨t.respond v, hx⟩
  · exact ⟨s.raise e, hx⟩

/-- Settles O11: with reset released, by what the decoder reads. -/
theorem everyStepHasANextState : Obligations.EveryStepHasANextState := by
  intro s
  cases hrst : s.rst with
  | true => exact ⟨_, step_of_rst hrst⟩
  | false =>
    cases hd : decode (s.buffer ++ s.cmd) with
    | instr i rest =>
      rw [step_of_decode hrst hd]
      exact exec_exists_next i (s.consume rest)
    | illegalCommand opc payload rest => exact ⟨_, step_of_decode_illegal hrst hd⟩
    | incomplete => exact ⟨_, step_of_decode_incomplete hrst hd⟩

/-! ### Counter uniqueness -/

/-- R280: one stream command of at most 2¹²⁸ blocks uses no counter value twice. -/
theorem nodup_countersUsed (c : Block) {n : Nat} (hn : n ≤ 2 ^ 128) : (countersUsed c n).Nodup :=
  List.Nodup.map_on
    (fun _ hi _ hj h =>
      have hmod := Nat.ModEq.add_left_cancel' c.toNat h
      hmod.eq_of_lt_of_lt ((List.mem_range.1 hi).trans_le hn) ((List.mem_range.1 hj).trans_le hn))
    List.nodup_range

/-- R210, R280: the counter of the block at index `i` of a stream command is among those the command uses. -/
theorem iterate_incCounter_mem_countersUsed (c : Block) {i n : Nat} (hi : i < n) :
    (incCounter^[i] c).toNat ∈ countersUsed c n := by
  rw [iterate_incCounter_toNat]
  exact List.mem_map_of_mem (List.mem_range.2 hi)

/-- R280: commands whose counter ranges do not overlap have no counter block in common. -/
theorem countersDisjoint.iterate_incCounter_ne {c c' : Block} {n n' : Nat} (h : countersDisjoint c n c' n') {i j : Nat}
    (hi : i < n) (hj : j < n') : incCounter^[i] c ≠ incCounter^[j] c' := by
  intro heq
  have hmem := iterate_incCounter_mem_countersUsed c' hj
  rw [← heq] at hmem
  exact h _ (iterate_incCounter_mem_countersUsed c hi) hmem

/-- R195: over the built tables distinct blocks have distinct encryptions, since `decryptBlock` gives each back. -/
theorem encryptBlock_injective (k : RoundKeys) : Function.Injective (encryptBlock buildTables k) :=
  (mutuallyInverse_encryptBlock k).left.injective

/-- Settles O57: distinct counters, and so distinct keystream blocks. -/
theorem disjointCounterRangesShareNoKeystream : Obligations.DisjointCounterRangesShareNoKeystream := by
  intro k c c' n n'
  refine ⟨nodup_countersUsed c, fun hdisj i j hi hj => ?_⟩
  exact (encryptBlock_injective k).ne (hdisj.iterate_incCounter_ne hi hj)

end Sys2Proof.Machine
end
